-- ==== Sys2Proof/Word.lean ====
section
/-! DEFINITION. The word types of the STU (00_scope.md R6, R8). -/

namespace Sys2Proof

/-- A 32-bit word: a command word, a register, a binary32 pattern (10_state.md R23, R31). -/
abbrev Word := BitVec 32

/-- A byte of `BUFA` or `BUFB` (10_state.md R36). -/
abbrev Byte := BitVec 8

/-- An offset into a store: 14 bits, `OFFW` of 00_scope.md R6. -/
abbrev Offset := BitVec 14

/-- A host byte address: 18 bits, `AW` of 00_scope.md R6. -/
abbrev HostAddr := BitVec 18

end Sys2Proof
end

