-- ==== Sys2Proof/Syntax.lean ====
section
/-! DEFINITION. The ten commands (spec/opcode_table.json, 30_encoding.md R100) and the command format (30_encoding.md R91). -/

namespace Sys2Proof

/-- One constructor for each row of spec/opcode_table.json. A command carries no immediate and names no register
(30_encoding.md R99), so no constructor has an argument. -/
inductive Instr where
  | lin       -- LIN,      word 0x00000001
  | bilin     -- BILIN,    word 0x00000002
  | trilin    -- TRILIN,   word 0x00000003
  | sampleA   -- SAMPLE_A, word 0x00000004
  | sampleB   -- SAMPLE_B, word 0x00000014
  | sampleF   -- SAMPLE_F, word 0x00000024
  | swzAB     -- SWZ_A_B,  word 0x00000008
  | swzBA     -- SWZ_B_A,  word 0x00000018
  | dswzAB    -- DSWZ_A_B, word 0x00000009
  | dswzBA    -- DSWZ_B_A, word 0x00000019
deriving DecidableEq, Repr

/-- The fields of format `C`, the only command format (30_encoding.md R90, R91). -/
structure Fields where
  zero : BitVec 26   -- bits 31:6
  sel  : BitVec 2    -- bits 5:4
  opc  : BitVec 4    -- bits 3:0
deriving DecidableEq, Repr

/-- Why a command word is refused, in the order the checks are made (30_encoding.md R94, 60_exceptions.md R181). -/
inductive CmdError where
  | illegalOpcode
  | reservedBits
  | reservedSel
deriving DecidableEq, Repr

end Sys2Proof
end

