-- ==== Sys2Proof/WellFormed.lean ====
section
/-! DEFINITION. When the fields of format `C` make a legal command (30_encoding.md R91, R92, R93). -/

namespace Sys2Proof

/-- The opcode is one of the six of 30_encoding.md R92. -/
def Fields.opcLegal (f : Fields) : Bool :=
  f.opc == 1 || f.opc == 2 || f.opc == 3 || f.opc == 4 || f.opc == 8 || f.opc == 9

/-- `ZERO` "must be 0" (30_encoding.md R91). -/
def Fields.zeroLegal (f : Fields) : Bool := f.zero == 0

/-- `SEL` is not reserved for the opcode (30_encoding.md R93). -/
def Fields.selLegal (f : Fields) : Bool :=
  if f.opc == 4 then f.sel != 3
  else if f.opc == 8 || f.opc == 9 then f.sel == 0 || f.sel == 1
  else f.sel == 0

/-- A legal command word's fields (30_encoding.md R100). -/
def Fields.wellFormed (f : Fields) : Bool := f.opcLegal && f.zeroLegal && f.selLegal

/-- The fields that stand for an instruction (30_encoding.md R92, R93). -/
def Instr.fields : Instr → Fields
  | .lin     => ⟨0, 0, 1⟩
  | .bilin   => ⟨0, 0, 2⟩
  | .trilin  => ⟨0, 0, 3⟩
  | .sampleA => ⟨0, 0, 4⟩
  | .sampleB => ⟨0, 1, 4⟩
  | .sampleF => ⟨0, 2, 4⟩
  | .swzAB   => ⟨0, 0, 8⟩
  | .swzBA   => ⟨0, 1, 8⟩
  | .dswzAB  => ⟨0, 0, 9⟩
  | .dswzBA  => ⟨0, 1, 9⟩

/-- An instruction is well formed when its fields are. Instructions have no operands (30_encoding.md R99), so every
one is. -/
def Instr.wellFormed (i : Instr) : Bool := i.fields.wellFormed

end Sys2Proof
end

