-- ==== Sys2Proof/Decode.lean ====
section
/-! DEFINITION. The decoder of 30_encoding.md R94, total on every 32-bit word, and after it the encoder of R91 and R100. -/

namespace Sys2Proof

/-- The three fields of a command word (30_encoding.md R91). -/
def Fields.ofWord (w : Word) : Fields :=
  ⟨w.extractLsb' 6 26, w.extractLsb' 4 2, w.extractLsb' 0 4⟩

/-- The command that an opcode and a selector name; none where the selector is reserved (30_encoding.md R92, R93). -/
def commandOf (opc : BitVec 4) (sel : BitVec 2) : Option Instr :=
  if opc = 1 then (if sel = 0 then some .lin else none)
  else if opc = 2 then (if sel = 0 then some .bilin else none)
  else if opc = 3 then (if sel = 0 then some .trilin else none)
  else if opc = 4 then
    (if sel = 0 then some .sampleA else if sel = 1 then some .sampleB else if sel = 2 then some .sampleF else none)
  else if opc = 8 then (if sel = 0 then some .swzAB else if sel = 1 then some .swzBA else none)
  else if opc = 9 then (if sel = 0 then some .dswzAB else if sel = 1 then some .dswzBA else none)
  else none

/-- Check 1 of 30_encoding.md R94: "opc not in {1, 2, 3, 4, 8, 9}" is illegal. -/
def opcodeKnown (opc : BitVec 4) : Bool := opc ∈ [1, 2, 3, 4, 8, 9]

/-- Decoding of a submitted word, "in this order; the first failing check decides the error code"
(30_encoding.md R94). -/
def decode (w : Word) : Except CmdError Instr :=
  let f := Fields.ofWord w
  if opcodeKnown f.opc = false then .error .illegalOpcode
  else if f.zero ≠ 0 then .error .reservedBits
  else
    match commandOf f.opc f.sel with
    | some i => .ok i
    | none => .error .reservedSel

/-- The code of a `CmdError` (60_exceptions.md R181). -/
def CmdError.code : CmdError → BitVec 4
  | .illegalOpcode => 1
  | .reservedBits => 2
  | .reservedSel => 3

/-- The word of fields: `ZERO` in bits 31:6, `SEL` in 5:4, `OPC` in 3:0 (30_encoding.md R91). -/
def Fields.toWord (f : Fields) : Word := f.zero ++ f.sel ++ f.opc

/-- The encoder: the command word of an instruction (30_encoding.md R91, R100). -/
def encode (i : Instr) : Word := i.fields.toWord

/-- The instruction the decoder reads from the low `nbits` bits of `w`, the bits above them 0. A command is one
32-bit word, handed over by value (30_encoding.md R90), so that no byte order arises. -/
def decodeTableWord (nbits w : Nat) : Option Instr :=
  match decode (BitVec.ofNat 32 (w % 2 ^ nbits)) with
  | .ok i => some i
  | .error _ => none

end Sys2Proof
end

