-- ==== Sys2Proof/Config.lean ====
section
/-! DEFINITION. What the hardware fixes (00_scope.md R6) and what the spec leaves open as a free value (00_scope.md R7). -/

namespace Sys2Proof.Config

/-- `SIZE`: samples per axis (00_scope.md R6). -/
def size : Nat := 16

/-- `NSAMP = SIZE³`: samples of one lookup table (00_scope.md R6). -/
def nsamp : Nat := 4096

/-- `NELEM`, and `NBYTES` in byte form: elements of one store (00_scope.md R6). -/
def nelem : Nat := 16384

/-- `NREG`: operand registers (00_scope.md R6). -/
def nreg : Nat := 21

/-- The open parameter `QNAN` (00_scope.md R7, 40_interpolate.md R123): sign and payload bits of the quiet NaN that
an operation delivers. It has NO body, so nothing can be proved of the bits. DESIGN CHOICE, safe (log 3): it is
applied to the step's seed, to the operation's place in the command and to the two operands, so that it is free at
every operation. Bit 22 of the result is the NaN's sign, bits 21:0 its payload. -/
opaque qnanBits (seed place : Nat) (a b : BitVec 32) : BitVec 23

end Sys2Proof.Config
end

