-- ==== Sys2Proof/Machine/State.lean ====
section
/-! DEFINITION. The state of the STU (10_state.md R21), its reset (R44), its host transactions (20_memory.md R61) and its reasons to stop. -/

namespace Sys2Proof.Machine

/-- The three stores (10_state.md R36, R37). -/
inductive StoreName where
  | bufA | bufB | fbuf
deriving DecidableEq, Repr

/-- A host transaction: `HostRead(addr, n)` or `HostWrite(addr, n, v)`, `n` 1 or 4 (20_memory.md R61). -/
inductive HostTxn where
  | read1  (addr : HostAddr)
  | read4  (addr : HostAddr)
  | write1 (addr : HostAddr) (v : Byte)
  | write4 (addr : HostAddr) (v : Word)
deriving DecidableEq, Repr

/-- What a host transaction returns (20_memory.md R61): a read that is `OK` also returns a value; `BusError` returns
none (60_exceptions.md R186). -/
inductive Response where
  | ok
  | okByte (v : Byte)
  | okWord (v : Word)
  | busError
deriving DecidableEq, Repr

/-- One turn of the environment: a host transaction, a turn given to the unit, or the reset input
(20_memory.md R61, 10_state.md R45, 70_reset_and_hazards.md R210). -/
inductive Event where
  | host (t : HostTxn)
  | unit
  | rst
deriving DecidableEq, Repr

/-- A store: (address, value) pairs, the addresses strictly rising and below 16384. A cell that is not listed holds
no value: "each such cell holds 'no value'" (70_reset_and_hazards.md R214). DESIGN CHOICE, safe (log 2). -/
abbrev Memory (w : Nat) := List (Nat × BitVec w)

/-- The canonical form of a store: addresses strictly rising and below `NELEM`. -/
def Memory.wf {w : Nat} : Memory w → Bool
  | [] => true
  | [(a, _)] => decide (a < Config.nelem)
  | (a, _) :: (b, v) :: rest => decide (a < b) && Memory.wf ((b, v) :: rest)

/-- The machine. Every field down to `fbuf` is a row of 10_state.md R21; the last three are the model's own. -/
structure State where
  /-- Operand registers `x[0]`..`x[20]` (R22, R23). -/
  x : Vector Word 21
  /-- `CTRL.DEGEN` (R33). -/
  degen : Bool
  /-- `CTRL.IE_DONE` (R33). -/
  ieDone : Bool
  /-- `CTRL.IE_ERR` (R33). -/
  ieErr : Bool
  /-- `STATUS.BUSY` (R34). -/
  busy : Bool
  /-- `STATUS.DONE` (R34). -/
  done : Bool
  /-- `STATUS.ERR` (R34). -/
  err : Bool
  /-- `STATUS.ERRCODE` (R34). -/
  errCode : BitVec 4
  /-- `CUR`, the command word being executed (R29). -/
  cur : Word
  /-- `DEGENL`, the latched degenerate mode (R29). -/
  degenL : Bool
  /-- `WALK`, the index of the next sample to copy (R27). -/
  walk : BitVec 12
  /-- `OFFX`, running offset of the x axis (R28). -/
  offX : Offset
  /-- `OFFY` (R28). -/
  offY : Offset
  /-- `OFFZ` (R28). -/
  offZ : Offset
  /-- `BUFA` (R36). -/
  bufA : List Host.Cell
  /-- `BUFB` (R36). -/
  bufB : List Host.Cell
  /-- `FBUF` (R37). -/
  fbuf : List (Nat × Word)
  /-- Model's own: how many interpolation steps have run, so that the NaN bits are free at each (log 3). -/
  nanSeed : Nat
  /-- Model's own: what the environment does next, in order (log 5). -/
  events : List Event
  /-- Model's own: what the last host transaction returned (log 6). -/
  response : Option Response
deriving DecidableEq, Repr

/-- Why a step stops the machine. -/
inductive Fault where
  /-- Raised by the unit's step when `BUSY = 1` and `CUR` is none of the ten command words. The spec accepts only
  legal words (10_state.md R35, R46), so that no run from reset reaches it. Safe (log 11). -/
  | curNotACommand (w : Word)
deriving DecidableEq, Repr

/-- Why the model gives a step no meaning. -/
inductive Refusal where
  /-- Raised by `exec` alone, for an instruction without a meaning. No arm uses it. Safe. -/
  | notModelled (mnemonic : String)
  /-- Raised by a `SAMPLE` or a host read of a store cell that nothing has written since reset: such a read "is
  **refused** by the model (no meaning; errs toward unprovable)" (70_reset_and_hazards.md R214, 00_scope.md R10).
  Safe (log 2). -/
  | unwritten (st : StoreName)
deriving DecidableEq, Repr

/-- The machine right after reset (10_state.md R44): control and hidden state 0, stores with no value in any cell.
The operand registers are unspecified by R44; 0 is the model's value, DESIGN CHOICE, unsafe (log 1). -/
def State.reset : State where
  x := Vector.replicate 21 0
  degen := false
  ieDone := false
  ieErr := false
  busy := false
  done := false
  err := false
  errCode := 0
  cur := 0
  degenL := false
  walk := 0
  offX := 0
  offY := 0
  offZ := 0
  bufA := []
  bufB := []
  fbuf := []
  nanSeed := 0
  events := []
  response := none

end Sys2Proof.Machine
end

