-- ==== Sys2Proof/Machine/Ops.lean ====
section
/-! DEFINITION. The named operations over stores and registers, taking a `CmdError` and leaving it, and accepting a command. -/

namespace Sys2Proof.Machine

/-! ### Stores -/

/-- The value a cell holds; none where nothing has been written (70_reset_and_hazards.md R214). -/
def Memory.read {w : Nat} : Memory w → Nat → Option (BitVec w)
  | [], _ => none
  | (b, v) :: rest, a => if a = b then some v else Memory.read rest a

/-- Gives a cell a value, keeping the addresses rising. -/
def Memory.write {w : Nat} : Memory w → Nat → BitVec w → Memory w
  | [], a, v => [(a, v)]
  | (b, u) :: rest, a, v =>
    if a < b then (a, v) :: (b, u) :: rest
    else if a = b then (a, v) :: rest
    else (b, u) :: Memory.write rest a v

/-- Leaves a cell without a value. -/
def Memory.erase {w : Nat} : Memory w → Nat → Memory w
  | [], _ => []
  | (b, u) :: rest, a => if a = b then Memory.erase rest a else (b, u) :: Memory.erase rest a

/-- Gives a cell a value or "no value", as a copy does (70_reset_and_hazards.md R214). -/
def Memory.put {w : Nat} (m : Memory w) (a : Nat) (v : Option (BitVec w)) : Memory w :=
  match v with
  | some u => Memory.write m a u
  | none => Memory.erase m a

/-- `MemWrite(D, to, 4, MemRead(S, from, 4))`: one sample moved whole, its four bytes in order (20_memory.md R69,
41_swizzle.md R145). A byte of no value is copied as no value (70_reset_and_hazards.md R214). -/
def copySample (src dst : Memory 8) (fromOff toOff : Nat) : Memory 8 :=
  let d0 := Memory.put dst toOff (Memory.read src fromOff)
  let d1 := Memory.put d0 (toOff + 1) (Memory.read src (fromOff + 1))
  let d2 := Memory.put d1 (toOff + 2) (Memory.read src (fromOff + 2))
  Memory.put d2 (toOff + 3) (Memory.read src (fromOff + 3))

/-- The 4-byte little-endian word at a byte offset: "the byte at the lowest offset in bits 7:0" (20_memory.md R65);
none where one of the four bytes has no value. -/
def readSampleWord (m : Memory 8) (a : Nat) : Option Word :=
  match Memory.read m a, Memory.read m (a + 1), Memory.read m (a + 2), Memory.read m (a + 3) with
  | some b0, some b1, some b2, some b3 => some (b3 ++ b2 ++ b1 ++ b0)
  | _, _, _, _ => none

/-- Stores a word at a byte offset, little-endian (20_memory.md R65). -/
def writeSampleWord (m : Memory 8) (a : Nat) (v : Word) : Memory 8 :=
  let m0 := Memory.write m a (v.extractLsb' 0 8)
  let m1 := Memory.write m0 (a + 1) (v.extractLsb' 8 8)
  let m2 := Memory.write m1 (a + 2) (v.extractLsb' 16 8)
  Memory.write m2 (a + 3) (v.extractLsb' 24 8)

/-! ### Registers -/

/-- Read of operand register `x[i]`: the 32 bits held (10_state.md R23). -/
def State.readX (s : State) (i : Fin 21) : Word := s.x[i]

/-- Write of operand register `x[i]`: the 32 bits written (10_state.md R23). -/
def State.writeX (s : State) (i : Fin 21) (v : Word) : State := { s with x := s.x.set i v }

/-- The contents of a byte store by its direction bit: false `BUFA`, true `BUFB` (30_encoding.md R93). -/
def State.byteStore (s : State) (b : Bool) : Memory 8 := if b then s.bufB else s.bufA

/-- Replaces the contents of a byte store: false `BUFA`, true `BUFB`. -/
def State.setByteStore (s : State) (b : Bool) (m : Memory 8) : State :=
  if b then { s with bufB := m } else { s with bufA := m }

/-- Replaces the contents of `FBUF`. -/
def State.setFbuf (s : State) (m : Memory 32) : State := { s with fbuf := m }

/-- The constant the `ID` register reads as (10_state.md R32). -/
def idWord : Word := 0x53540414

/-! ### Commands and errors -/

/-- `raise CmdError(code)`: `ERR <- 1`, and `ERRCODE <- code` only if `ERR` was 0; "nothing else changes"
(60_exceptions.md R184, R191). -/
def State.raiseCmdError (s : State) (e : CmdError) : State :=
  { s with err := true, errCode := if s.err then s.errCode else e.code }

/-- Leaving the error state: `ERR <- 0` and `ERRCODE <- 0`; "clearing restores nothing" (60_exceptions.md R190,
10_state.md R34). -/
def State.clearErr (s : State) : State := { s with err := false, errCode := 0 }

/-- `accept(w)` (10_state.md R46). -/
def State.accept (s : State) (w : Word) : State :=
  { s with cur := w, degenL := s.degen, walk := 0, offX := 0, offY := 0, offZ := 0, done := false, busy := true }

/-- `finish` (10_state.md R46): `BUSY <- 0`, `DONE <- 1`. -/
def State.finish (s : State) : State := { s with busy := false, done := true }

/-- Uses up this step's free NaN bits (log 3). -/
def State.bumpSeed (s : State) : State := { s with nanSeed := s.nanSeed + 1 }

/-- The free NaN bits of this step (00_scope.md R7 `QNAN`; log 3). -/
def State.nanSource (s : State) : Nat → Word → Word → BitVec 23 := Config.qnanBits s.nanSeed

/-- Submits a word to `CMD` while the unit is idle: decode, then accept it or raise one `CmdError` (10_state.md R35,
30_encoding.md R94). -/
def State.submit (s : State) (w : Word) : State :=
  match decode w with
  | .ok _ => s.accept w
  | .error e => s.raiseCmdError e

/-! ### The environment -/

/-- The state with the environment's coming events replaced (log 5). -/
def State.withEvents (s : State) (es : List Event) : State := { s with events := es }

/-- Records what a host transaction returned (20_memory.md R61; log 6). -/
def State.respond (s : State) (r : Response) : State := { s with response := some r }

/-- The reset input (70_reset_and_hazards.md R210 to R212): every field as at reset, but that the environment's
coming events and the count of free NaN bits go on (log 10). -/
def State.resetNow (s : State) : State := { State.reset with nanSeed := s.nanSeed, events := s.events }

end Sys2Proof.Machine
end

