-- ==== Sys2Proof/Machine/Flags.lean ====
section
/-! DEFINITION. The control and status words, write-1-to-clear, and the interrupt line (10_state.md R30 to R34, 60_exceptions.md R189). -/

namespace Sys2Proof.Machine

/-- What `CTRL` reads as: `DEGEN`, `IE_DONE`, `IE_ERR` in bits 0, 1, 2, the rest 0 (10_state.md R33). -/
def State.ctrlWord (s : State) : Word :=
  0#29 ++ BitVec.ofBool s.ieErr ++ BitVec.ofBool s.ieDone ++ BitVec.ofBool s.degen

/-- A host write of `CTRL` stores bits 2:0 and ignores the others (10_state.md R31, R33, 20_memory.md R66). -/
def State.writeCtrl (s : State) (v : Word) : State :=
  { s with degen := v.getLsbD 0, ieDone := v.getLsbD 1, ieErr := v.getLsbD 2 }

/-- What `STATUS` reads as: `BUSY`, `DONE`, `ERR` in bits 0, 1, 2, `ERRCODE` in bits 7:4, the rest 0
(10_state.md R34). -/
def State.statusWord (s : State) : Word :=
  0#24 ++ s.errCode ++ 0#1 ++ BitVec.ofBool s.err ++ BitVec.ofBool s.done ++ BitVec.ofBool s.busy

/-- `DONE <- 0`. -/
def State.clearDone (s : State) : State := { s with done := false }

/-- A host write of `STATUS`: bit 1 clears `DONE`, bit 2 clears `ERR` and `ERRCODE`, "every other bit of `v` is
ignored" (10_state.md R34). -/
def State.writeStatus (s : State) (v : Word) : State :=
  let s1 := if v.getLsbD 1 then s.clearDone else s
  if v.getLsbD 2 then s1.clearErr else s1

/-- The interrupt line (60_exceptions.md R189). -/
def State.irq (s : State) : Bool := (s.ieDone && s.done) || (s.ieErr && s.err)

end Sys2Proof.Machine
end

