-- ==== Sys2Proof/Machine/Float.lean ====
section
/-! DEFINITION. Binary32 arithmetic on 32-bit patterns (40_interpolate.md R120 to R123).

Every finite binary32 value is a whole number of units of 2^-149, so a value is held as a sign and a natural number
of units, and each operation is: the exact result as a fraction of units, rounded once. -/

namespace Sys2Proof.Machine

/-- Bit 31 (R120). -/
def signBit (a : Word) : Bool := a.getLsbD 31

/-- Bits 30:23, the biased exponent (R120). -/
def expField (a : Word) : Nat := (a.extractLsb' 23 8).toNat

/-- Bits 22:0, the fraction (R120). -/
def fracField (a : Word) : Nat := (a.extractLsb' 0 23).toNat

/-- A NaN: exponent all ones, fraction not zero (R120). -/
def isNaN (a : Word) : Bool := expField a == 255 && fracField a != 0

/-- An infinity: exponent all ones, fraction zero (R120). -/
def isInf (a : Word) : Bool := expField a == 255 && fracField a == 0

/-- A finite value: a normal or subnormal number or a zero (R120). -/
def isFinite (a : Word) : Bool := expField a != 255

/-- `+0` or `−0` (R120). -/
def isZero (a : Word) : Bool := expField a == 0 && fracField a == 0

/-- A quiet NaN: a NaN with fraction bit 22 set (R123). -/
def isQuietNaN (a : Word) : Bool := isNaN a && a.getLsbD 22

/-- The units of 2^-149 in the magnitude whose exponent field is `e` and fraction `f`: a subnormal is `f` units, a
normal number `(2^23 + f)·2^(e−1)` (R120). -/
def unitsOf (e f : Nat) : Nat := if e = 0 then f else (2 ^ 23 + f) * 2 ^ (e - 1)

/-- The magnitude of a finite value in units of 2^-149. -/
def magnitude (a : Word) : Nat := unitsOf (expField a) (fracField a)

/-- A finite value in units of 2^-149, with its sign. -/
def unitsInt (a : Word) : Int := if signBit a then -(magnitude a : Int) else (magnitude a : Int)

/-- Bits 30:0 of the infinities. -/
def infBits : Nat := 0x7F800000

/-- The pattern with the given sign and bits 30:0. -/
def packBits (neg : Bool) (low : Nat) : Word := BitVec.ofBool neg ++ BitVec.ofNat 31 low

/-- Round to nearest, ties to even: the whole number nearest `n / d`. -/
def nearestEven (n d : Nat) : Nat :=
  let m := n / d
  let r := n % d
  if 2 * r > d || (2 * r == d && m % 2 == 1) then m + 1 else m

/-- Bits 30:0 of the binary32 magnitude nearest `n / d` units of 2^-149, ties to even: a result too large becomes
the infinity, one too small a subnormal or zero (R121). The exponent `k` makes `n / (d·2^k)` a 24-bit number; a
rounding that carries out of it is absorbed by the exponent field. That the overflow is judged after the rounding is
IEEE 754's, PRESUMED, unsafe (log 14). -/
def roundUnits (n d : Nat) : Nat :=
  let k := Nat.log2 (n / d) - 23
  min (k * 2 ^ 23 + nearestEven n (d * 2 ^ k)) infBits

/-- A zero with the given sign. -/
def zeroOf (neg : Bool) : Word := packBits neg 0

/-- An infinity with the given sign. -/
def infOf (neg : Bool) : Word := packBits neg infBits

/-- The operand with its sign turned over. -/
def negate (a : Word) : Word := packBits (!signBit a) (a.toNat % 2 ^ 31)

/-- The sum of two finite values, rounded once (R121); an exact zero is `+0` unless both operands are `−0` (R122). -/
def addFinite (a b : Word) : Word :=
  let n := unitsInt a + unitsInt b
  if n = 0 then zeroOf (signBit a && signBit b)
  else packBits (decide (n < 0)) (roundUnits n.natAbs 1)

/-- `a ⊕ b` where it is not a NaN; none where R122 makes it one. -/
def addValue (a b : Word) : Option Word :=
  if isNaN a || isNaN b then none
  else if isInf a then
    if isInf b && (signBit a != signBit b) then none else some a
  else if isInf b then some b
  else some (addFinite a b)

/-- `a ⊖ b` where it is not a NaN: the sum of `a` and the negated `b`. DEDUCED, safe (log 19). -/
def subValue (a b : Word) : Option Word := addValue a (negate b)

/-- `a ⊗ b` where it is not a NaN (R121, R122): "sign of a zero product or quotient: XOR of the operand signs". -/
def mulValue (a b : Word) : Option Word :=
  let neg := signBit a != signBit b
  if isNaN a || isNaN b then none
  else if isInf a || isInf b then
    if isZero a || isZero b then none else some (infOf neg)
  else some (packBits neg (roundUnits (magnitude a * magnitude b) (2 ^ 149)))

/-- `a ⊘ b` where it is not a NaN (R121, R122). -/
def divValue (a b : Word) : Option Word :=
  let neg := signBit a != signBit b
  if isNaN a || isNaN b then none
  else if isInf a then
    if isInf b then none else some (infOf neg)
  else if isInf b then some (zeroOf neg)
  else if isZero b then
    if isZero a then none else some (infOf neg)
  else some (packBits neg (roundUnits (magnitude a * 2 ^ 149) (magnitude b)))

/-- The free NaN bits of one step: from the place of an operation in its command and its two operands to 23 bits
(00_scope.md R7 `QNAN`). -/
abbrev NaNSource := Nat → Word → Word → BitVec 23

/-- The quiet NaN with the given sign and payload: exponent all ones, fraction bit 22 set (R123). -/
def quietNaN (q : BitVec 23) : Word := q.extractLsb' 22 1 ++ 0xFF#8 ++ 1#1 ++ q.extractLsb' 0 22

/-- What an operation delivers: its value, or *a* quiet NaN, a free one (R123). -/
def deliver (nan : NaNSource) (place : Nat) (a b : Word) (r : Option Word) : Word :=
  match r with
  | some v => v
  | none => quietNaN (nan place a b)

/-- `a ⊕ b` (R121 to R123). -/
def fAdd (nan : NaNSource) (place : Nat) (a b : Word) : Word := deliver nan place a b (addValue a b)

/-- `a ⊖ b` (R121 to R123). -/
def fSub (nan : NaNSource) (place : Nat) (a b : Word) : Word := deliver nan place a b (subValue a b)

/-- `a ⊗ b` (R121 to R123). -/
def fMul (nan : NaNSource) (place : Nat) (a b : Word) : Word := deliver nan place a b (mulValue a b)

/-- `a ⊘ b` (R121 to R123). -/
def fDiv (nan : NaNSource) (place : Nat) (a b : Word) : Word := deliver nan place a b (divValue a b)

/-- IEEE equality: "`+0 == −0` is true, and it is false whenever either is a NaN" (R125). -/
def fEq (a b : Word) : Bool := !isNaN a && !isNaN b && (a == b || (isZero a && isZero b))

/-- `f32(n)`, the binary32 value of a whole number (00_scope.md R8). -/
def f32OfNat (n : Nat) : Word := packBits false (roundUnits (n * 2 ^ 149) 1)

/-- `floor(v)` of a finite value, as a whole number (00_scope.md R9). -/
def floorInt (a : Word) : Int := unitsInt a / 2 ^ 149

/-- `ceil(v)` of a finite value, as a whole number (00_scope.md R9). -/
def ceilInt (a : Word) : Int := -((-unitsInt a) / 2 ^ 149)

end Sys2Proof.Machine
end

