-- ==== Sys2Proof/Machine/Operands.lean ====
section
/-! DEFINITION. The fixed operands of the interpolation commands (10_state.md R22, R24) and the elements of the stores (42_sample.md R163, R164). -/

namespace Sys2Proof.Machine

/-- Index of corner register `C<c>` (10_state.md R22). -/
def regC (c : Fin 8) : Fin 21 := ⟨c.val, by omega⟩

/-- Index of `X0` (10_state.md R22). -/
def regX0 : Fin 21 := 8
/-- Index of `X1`. -/
def regX1 : Fin 21 := 9
/-- Index of `Y0`. -/
def regY0 : Fin 21 := 10
/-- Index of `Y1`. -/
def regY1 : Fin 21 := 11
/-- Index of `Z0`. -/
def regZ0 : Fin 21 := 12
/-- Index of `Z1`. -/
def regZ1 : Fin 21 := 13
/-- Index of `PX`. -/
def regPX : Fin 21 := 14
/-- Index of `PY`. -/
def regPY : Fin 21 := 15
/-- Index of `PZ`. -/
def regPZ : Fin 21 := 16
/-- Index of the scalar result `R0` (red of `SAMPLE`). -/
def regR0 : Fin 21 := 17
/-- Index of `R1` (green). -/
def regR1 : Fin 21 := 18
/-- Index of `R2` (blue). -/
def regR2 : Fin 21 := 19
/-- Index of `R3` (alpha). -/
def regR3 : Fin 21 := 20

/-- The eight corner registers as values (10_state.md R22). -/
def State.corners (s : State) : Vector Word 8 :=
  #v[s.readX (regC 0), s.readX (regC 1), s.readX (regC 2), s.readX (regC 3),
     s.readX (regC 4), s.readX (regC 5), s.readX (regC 6), s.readX (regC 7)]

/-- `BYTE_CONV` at the spec's default, "the exact conversion `b ↦ f32(b)`" (42_sample.md R164, 00_scope.md R7).
DESIGN CHOICE, unsafe (log 4). -/
def byteConv (b : Byte) : Word := f32OfNat b.toNat

/-- One element of the store a `SAMPLE` reads, as a number: `FRead(e)` as stored, or `BYTE_CONV` of the byte; none
where nothing has been written (42_sample.md R164, 70_reset_and_hazards.md R214). -/
def State.element (s : State) (conv : Byte → Word) (st : StoreName) (e : Nat) : Option Word :=
  match st with
  | .bufA => (Memory.read s.bufA e).map conv
  | .bufB => (Memory.read s.bufB e).map conv
  | .fbuf => Memory.read s.fbuf e

/-- The element index of channel `ch` of grid cell `(x, y, z)` in the linear layout (10_state.md R38). -/
def elementIndex (x y z ch : Nat) : Nat := ((z * 16 + y) * 16 + x) * 4 + ch

/-- The linear byte offset of grid cell `(x, y, z)` (10_state.md R38). -/
def linearOffset (x y z : Nat) : Nat := ((z * 16 + y) * 16 + x) * 4

end Sys2Proof.Machine
end

