-- ==== Sys2Proof/Machine/HostPort.lean ====
section
/-! DEFINITION. The host port: address map, checks and effect of a host transaction (20_memory.md R61 to R68). -/

namespace Sys2Proof.Machine

/-- What a host address decodes to (20_memory.md R62). -/
inductive Target where
  | byteStore (b : Bool) (off : Nat)   -- false BUFA, true BUFB
  | fbuf (i : Nat)
  | id
  | ctrl
  | status
  | cmd
  | reg (i : Fin 21)
deriving DecidableEq, Repr

/-- The causes of a `BusError`, in the order they are checked (60_exceptions.md R185). None is visible to the host
(20_memory.md R68). -/
inductive BusCause where
  | unmapped
  | width
  | misaligned
  | direction
  | busy
deriving DecidableEq, Repr

/-- The host address map (20_memory.md R62). The bytes inside a register's word count as mapped, so that a misaligned
or 1-byte access to them fails check 2 or 3 and not check 1, which cannot be observed: DEDUCED, safe (log 12). -/
def targetOf (addr : HostAddr) : Option Target :=
  let a := addr.toNat
  if a < 0x4000 then some (.byteStore false a)
  else if a < 0x8000 then some (.byteStore true (a - 0x4000))
  else if a < 0x10000 then none
  else if a < 0x20000 then some (.fbuf ((a - 0x10000) / 4))
  else if a < 0x20004 then some .id
  else if a < 0x20008 then some .ctrl
  else if a < 0x2000C then some .status
  else if a < 0x20010 then some .cmd
  else if a < 0x20040 then none
  else if h : (a - 0x20040) / 4 < 21 then some (.reg ⟨(a - 0x20040) / 4, h⟩)
  else none

/-- The address of a transaction. -/
def HostTxn.addr : HostTxn → HostAddr
  | .read1 a => a
  | .read4 a => a
  | .write1 a _ => a
  | .write4 a _ => a

/-- A transaction of width 4. -/
def HostTxn.isWide : HostTxn → Bool
  | .read1 _ => false
  | .read4 _ => true
  | .write1 _ _ => false
  | .write4 _ _ => true

/-- A write. -/
def HostTxn.isWrite : HostTxn → Bool
  | .read1 _ => false
  | .read4 _ => false
  | .write1 _ _ => true
  | .write4 _ _ => true

/-- "`BUFA` and `BUFB` accept 1-byte and 4-byte accesses", the others 4-byte accesses only (20_memory.md R63). -/
def Target.widthOk (t : Target) (wide : Bool) : Bool :=
  match t with
  | .byteStore _ _ => true
  | .fbuf _ => wide
  | .id => wide
  | .ctrl => wide
  | .status => wide
  | .cmd => wide
  | .reg _ => wide

/-- "No write to ID, no read of CMD" (20_memory.md R68, check 4). -/
def Target.directionOk (t : Target) (write : Bool) : Bool :=
  match t with
  | .byteStore _ _ => true
  | .fbuf _ => true
  | .id => !write
  | .ctrl => true
  | .status => true
  | .cmd => write
  | .reg _ => true

/-- The targets that are locked while `BUSY = 1`; `ID`, `CTRL` and `STATUS` "remain accessible"
(20_memory.md R67). -/
def Target.locked (t : Target) : Bool :=
  match t with
  | .byteStore _ _ => true
  | .fbuf _ => true
  | .id => false
  | .ctrl => false
  | .status => false
  | .cmd => true
  | .reg _ => true

/-- Checks 1 to 5 of a host transaction, "in this order; the first that fails decides the outcome"
(20_memory.md R68). -/
def checkTxn (t : HostTxn) (busy : Bool) : Except BusCause Target :=
  match targetOf t.addr with
  | none => .error .unmapped
  | some g =>
    if g.widthOk t.isWide = false then .error .width
    else if t.isWide = true ∧ t.addr.toNat % 4 ≠ 0 then .error .misaligned
    else if g.directionOk t.isWrite = false then .error .direction
    else if g.locked = true ∧ busy = true then .error .busy
    else .ok g

/-- What a read returns to the host: the value, or the refusal of a cell that nothing has written
(70_reset_and_hazards.md R214; log 2). -/
def answerByte (st : StoreName) (s : State) (v : Option Byte) : Host.Outcome State Fault Refusal :=
  match v with
  | some b => .next (s.respond (.okByte b))
  | none => .refused (.unwritten st)

/-- The same for a 32-bit value. -/
def answerWord (st : StoreName) (s : State) (v : Option Word) : Host.Outcome State Fault Refusal :=
  match v with
  | some w => .next (s.respond (.okWord w))
  | none => .refused (.unwritten st)

/-- The name of a byte store. -/
def byteStoreName (b : Bool) : StoreName := if b then .bufB else .bufA

/-- A 1-byte read that passed the checks (20_memory.md R65, R66). Only the byte stores take one (R63). -/
def performRead1 (g : Target) (s : State) : Host.Outcome State Fault Refusal :=
  match g with
  | .byteStore b off => answerByte (byteStoreName b) s (Memory.read (s.byteStore b) off)
  | .fbuf _ => .next (s.respond .busError)
  | .id => .next (s.respond .busError)
  | .ctrl => .next (s.respond .busError)
  | .status => .next (s.respond .busError)
  | .cmd => .next (s.respond .busError)
  | .reg _ => .next (s.respond .busError)

/-- A 4-byte read that passed the checks (20_memory.md R65, R66). A read of `CMD` does not pass (R68). -/
def performRead4 (g : Target) (s : State) : Host.Outcome State Fault Refusal :=
  match g with
  | .byteStore b off => answerWord (byteStoreName b) s (readSampleWord (s.byteStore b) off)
  | .fbuf i => answerWord .fbuf s (Memory.read s.fbuf i)
  | .id => .next (s.respond (.okWord idWord))
  | .ctrl => .next (s.respond (.okWord s.ctrlWord))
  | .status => .next (s.respond (.okWord s.statusWord))
  | .cmd => .next (s.respond .busError)
  | .reg i => .next (s.respond (.okWord (s.readX i)))

/-- A 1-byte write that passed the checks (20_memory.md R65, R66). -/
def performWrite1 (g : Target) (v : Byte) (s : State) : Host.Outcome State Fault Refusal :=
  match g with
  | .byteStore b off => .next ((s.setByteStore b (Memory.write (s.byteStore b) off v)).respond .ok)
  | .fbuf _ => .next (s.respond .busError)
  | .id => .next (s.respond .busError)
  | .ctrl => .next (s.respond .busError)
  | .status => .next (s.respond .busError)
  | .cmd => .next (s.respond .busError)
  | .reg _ => .next (s.respond .busError)

/-- A 4-byte write that passed the checks (20_memory.md R65, R66); a write of `CMD` submits the word, and "in both
cases the host transaction itself returns `OK`" (10_state.md R35). A write of `ID` does not pass (R68). -/
def performWrite4 (g : Target) (v : Word) (s : State) : Host.Outcome State Fault Refusal :=
  match g with
  | .byteStore b off => .next ((s.setByteStore b (writeSampleWord (s.byteStore b) off v)).respond .ok)
  | .fbuf i => .next ((s.setFbuf (Memory.write s.fbuf i v)).respond .ok)
  | .id => .next (s.respond .busError)
  | .ctrl => .next ((s.writeCtrl v).respond .ok)
  | .status => .next ((s.writeStatus v).respond .ok)
  | .cmd => .next ((s.submit v).respond .ok)
  | .reg i => .next ((s.writeX i v).respond .ok)

/-- Check 6: the access itself (20_memory.md R68). -/
def perform (t : HostTxn) (g : Target) (s : State) : Host.Outcome State Fault Refusal :=
  match t with
  | .read1 _ => performRead1 g s
  | .read4 _ => performRead4 g s
  | .write1 _ v => performWrite1 g v s
  | .write4 _ v => performWrite4 g v s

/-- One host transaction, one step of the host (20_memory.md R61, R68): a failed check answers `BusError` and changes
no state (60_exceptions.md R186; log 7). -/
def hostStep (t : HostTxn) (s : State) : Host.Outcome State Fault Refusal :=
  match checkTxn t s.busy with
  | .error _ => .next (s.respond .busError)
  | .ok g => perform t g s

end Sys2Proof.Machine
end

