-- ==== Sys2Proof/Machine/Interpolate.lean ====
section
/-! DEFINITION. `lin`, `bilin`, `trilin` (40_interpolate.md R125 to R127) and the commands `LIN`, `BILIN`, `TRILIN` (R128 to R130).

The argument `place` numbers the operations of a command, so that each has NaN bits of its own (log 3). A `lin` takes
six places, the six operations R125 writes out (log 13). -/

namespace Sys2Proof.Machine

/-- `lin(x, x0, x1, f0, f1, dg)`, its operations in the order of 40_interpolate.md R125. -/
def lin (nan : NaNSource) (place : Nat) (dg : Bool) (x x0 x1 f0 f1 : Word) : Word :=
  if dg && fEq x0 x1 then f0
  else
    let t1 := fSub nan place x x0
    let t2 := fSub nan (place + 1) x1 x0
    let t3 := fDiv nan (place + 2) t1 t2
    let t4 := fSub nan (place + 3) f1 f0
    let t5 := fMul nan (place + 4) t3 t4
    fAdd nan (place + 5) f0 t5

/-- `bilin`: "interpolate along X twice (once per Y-edge), then along Y" (40_interpolate.md R126). -/
def bilin (nan : NaNSource) (place : Nat) (dg : Bool) (x y x0 x1 y0 y1 f0 f1 f2 f3 : Word) : Word :=
  let e0 := lin nan place dg x x0 x1 f0 f1
  let e1 := lin nan (place + 6) dg x x0 x1 f2 f3
  lin nan (place + 12) dg y y0 y1 e0 e1

/-- `trilin`: "interpolate two bilinear faces (Z=0 face, Z=1 face), then along Z" (40_interpolate.md R127). Corner `c`
is `f[c]`, `c = xbit + 2·ybit + 4·zbit`. -/
def trilin (nan : NaNSource) (place : Nat) (dg : Bool) (x y z x0 x1 y0 y1 z0 z1 : Word) (f : Vector Word 8) : Word :=
  let b0 := bilin nan place dg x y x0 x1 y0 y1 f[0] f[1] f[2] f[3]
  let b1 := bilin nan (place + 18) dg x y x0 x1 y0 y1 f[4] f[5] f[6] f[7]
  lin nan (place + 36) dg z z0 z1 b0 b1

/-- The end of a scalar interpolation step: the result to `R0`, then `finish` (10_state.md R24, R46). -/
def State.scalarResult (s : State) (v : Word) : State := ((s.writeX regR0 v).bumpSeed).finish

/-- `LIN` (40_interpolate.md R128). -/
def execLin (s : State) : Host.Outcome State Fault Refusal :=
  .next (s.scalarResult
    (lin s.nanSource 0 s.degenL (s.readX regPX) (s.readX regX0) (s.readX regX1) (s.readX (regC 0)) (s.readX (regC 1))))

/-- `BILIN` (40_interpolate.md R129). -/
def execBilin (s : State) : Host.Outcome State Fault Refusal :=
  .next (s.scalarResult
    (bilin s.nanSource 0 s.degenL (s.readX regPX) (s.readX regPY)
      (s.readX regX0) (s.readX regX1) (s.readX regY0) (s.readX regY1)
      (s.readX (regC 0)) (s.readX (regC 1)) (s.readX (regC 2)) (s.readX (regC 3))))

/-- `TRILIN` (40_interpolate.md R130). -/
def execTrilin (s : State) : Host.Outcome State Fault Refusal :=
  .next (s.scalarResult
    (trilin s.nanSource 0 s.degenL (s.readX regPX) (s.readX regPY) (s.readX regPZ)
      (s.readX regX0) (s.readX regX1) (s.readX regY0) (s.readX regY1) (s.readX regZ0) (s.readX regZ1) s.corners))

end Sys2Proof.Machine
end

