-- ==== Sys2Proof/Machine/Sample.lean ====
section
/-! DEFINITION. The command `SAMPLE` (42_sample.md R160 to R169). -/

namespace Sys2Proof.Machine

/-- "The clamp is applied to the integer before any narrowing": the index 0..15 (42_sample.md R162). -/
def clampIndex (i : Int) : Nat := if i < 0 then 0 else if i > 15 then 15 else i.toNat

/-- `lo(s)` (42_sample.md R162). -/
def lowerIndex (s : Word) : Nat :=
  if isNaN s then 0
  else if isInf s then (if signBit s then 0 else 15)
  else clampIndex (floorInt s)

/-- `hi(s)`: "the same with ceil(s) in place of floor(s)" (42_sample.md R162). -/
def upperIndex (s : Word) : Nat :=
  if isNaN s then 0
  else if isInf s then (if signBit s then 0 else 15)
  else clampIndex (ceilInt s)

/-- The binary32 constant `15.0` (42_sample.md R161). -/
def fifteen : Word := 0x41700000

/-- The scaled coordinate `s_a = p_a ⊗ 15.0` (42_sample.md R161). -/
def scaled (nan : NaNSource) (place : Nat) (p : Word) : Word := fMul nan place p fifteen

/-- The point in grid units and the index pairs of the located cell (42_sample.md R161, R162). -/
structure GridCell where
  sx : Word
  sy : Word
  sz : Word
  x0 : Nat
  x1 : Nat
  y0 : Nat
  y1 : Nat
  z0 : Nat
  z1 : Nat
deriving DecidableEq, Repr

/-- Locates the cell of a point; the three scalings are places 0, 1 and 2 of the command (42_sample.md R161, R162). -/
def locate (nan : NaNSource) (px py pz : Word) : GridCell :=
  let sx := scaled nan 0 px
  let sy := scaled nan 1 py
  let sz := scaled nan 2 pz
  ⟨sx, sy, sz, lowerIndex sx, upperIndex sx, lowerIndex sy, upperIndex sy, lowerIndex sz, upperIndex sz⟩

/-- `e(c, ch)`: the element index of corner `c` for channel `ch` (42_sample.md R163). -/
def cornerElement (g : GridCell) (c : Fin 8) (ch : Nat) : Nat :=
  elementIndex (if c.val % 2 = 1 then g.x1 else g.x0) (if c.val / 2 % 2 = 1 then g.y1 else g.y0)
    (if c.val / 4 = 1 then g.z1 else g.z0) ch

/-- The eight corner values of one channel; none where an element has no value. "All 32 are performed whether or not
a bypass makes a value unused" (42_sample.md R169). -/
def cornerValues (rd : Nat → Option Word) (g : GridCell) (ch : Nat) : Option (Vector Word 8) :=
  match rd (cornerElement g 0 ch), rd (cornerElement g 1 ch), rd (cornerElement g 2 ch), rd (cornerElement g 3 ch),
    rd (cornerElement g 4 ch), rd (cornerElement g 5 ch), rd (cornerElement g 6 ch), rd (cornerElement g 7 ch) with
  | some v0, some v1, some v2, some v3, some v4, some v5, some v6, some v7 => some #v[v0, v1, v2, v3, v4, v5, v6, v7]
  | _, _, _, _, _, _, _, _ => none

/-- The result of one lane: `trilin` of the scaled point with the indices as bounds (42_sample.md R165). The places
of lane `ch` start at `3 + 42·ch` (log 3). -/
def laneResult (nan : NaNSource) (dg : Bool) (g : GridCell) (ch : Nat) (v : Vector Word 8) : Word :=
  trilin nan (3 + 42 * ch) dg g.sx g.sy g.sz (f32OfNat g.x0) (f32OfNat g.x1) (f32OfNat g.y0) (f32OfNat g.y1)
    (f32OfNat g.z0) (f32OfNat g.z1) v

/-- The four lanes (42_sample.md R165); none where an element they read has no value. -/
def sampleLanes (nan : NaNSource) (dg : Bool) (g : GridCell) (rd : Nat → Option Word) : Option (Vector Word 4) :=
  match cornerValues rd g 0, cornerValues rd g 1, cornerValues rd g 2, cornerValues rd g 3 with
  | some v0, some v1, some v2, some v3 =>
    some #v[laneResult nan dg g 0 v0, laneResult nan dg g 1 v1, laneResult nan dg g 2 v2, laneResult nan dg g 3 v3]
  | _, _, _, _ => none

/-- The cell that the point in `PX`, `PY`, `PZ` falls into (42_sample.md R166). -/
def State.gridCell (s : State) : GridCell :=
  locate s.nanSource (s.readX regPX) (s.readX regPY) (s.readX regPZ)

/-- The end of a sampling step: red, green, blue, alpha to `R0`..`R3`, then `finish` (42_sample.md R166). -/
def State.sampleResult (s : State) (r : Vector Word 4) : State :=
  (((((s.writeX regR0 r[0]).writeX regR1 r[1]).writeX regR2 r[2]).writeX regR3 r[3]).bumpSeed).finish

/-- `SAMPLE` of the linear table in one store, with `BYTE_CONV` as an argument (42_sample.md R166, R164). A read of
an element that nothing has written is refused (70_reset_and_hazards.md R214; log 2). -/
def sampleStore (conv : Byte → Word) (st : StoreName) (s : State) : Host.Outcome State Fault Refusal :=
  match sampleLanes s.nanSource s.degenL s.gridCell (s.element conv st) with
  | some r => .next (s.sampleResult r)
  | none => .refused (.unwritten st)

/-- `SAMPLE A`: the byte-form table in `BUFA` (42_sample.md R166, 30_encoding.md R93). -/
def execSampleA (s : State) : Host.Outcome State Fault Refusal := sampleStore byteConv .bufA s

/-- `SAMPLE B`: the byte-form table in `BUFB`. -/
def execSampleB (s : State) : Host.Outcome State Fault Refusal := sampleStore byteConv .bufB s

/-- `SAMPLE F`: the float-form table in `FBUF`. -/
def execSampleF (s : State) : Host.Outcome State Fault Refusal := sampleStore byteConv .fbuf s

end Sys2Proof.Machine
end

