-- ==== Sys2Proof/Machine/Swizzle.lean ====
section
/-! DEFINITION. The tiled layout and the walk of `SWZ` and `DSWZ` (41_swizzle.md R140 to R147). -/

namespace Sys2Proof.Machine

/-- `X_MASK = 0x012C` (41_swizzle.md R142). -/
def xMask : Offset := 0x012C

/-- `Y_MASK = 0x20D0` (41_swizzle.md R142). -/
def yMask : Offset := 0x20D0

/-- `Z_MASK = 0x1E00` (41_swizzle.md R142). -/
def zMask : Offset := 0x1E00

/-- `next(o, M) = sub_14(o, M) & M` (41_swizzle.md R144). -/
def nextOffset (o m : Offset) : Offset := (o - m) &&& m

/-- `pdep` from bit `pos` of the mask on, `n` bits to go, the next bit of `v` being bit `i`. -/
def pdepFrom (v m : Nat) : (n pos i : Nat) → Nat
  | 0, _, _ => 0
  | n + 1, pos, i =>
    if m.testBit pos then (if v.testBit i then 2 ^ pos else 0) + pdepFrom v m n (pos + 1) (i + 1)
    else pdepFrom v m n (pos + 1) i

/-- `pdep(v, m)`: bit `i` of `v` at the position of the `i`-th lowest set bit of `m`, zero elsewhere
(00_scope.md R8). -/
def pdep (v : BitVec 4) (m : Offset) : Offset := BitVec.ofNat 14 (pdepFrom v.toNat m.toNat 14 0 0)

/-- `tiled(x, y, z)` in closed form (41_swizzle.md R143). -/
def tiledOffset (x y z : BitVec 4) : Offset := pdep x xMask ||| pdep y yMask ||| pdep z zMask

/-- The grid coordinate x of the walk, `WALK[3:0]` (10_state.md R27). -/
def State.walkX (s : State) : BitVec 4 := s.walk.extractLsb' 0 4

/-- `WALK[7:4]` (10_state.md R27). -/
def State.walkY (s : State) : BitVec 4 := s.walk.extractLsb' 4 4

/-- `WALK[11:8]` (10_state.md R27). -/
def State.walkZ (s : State) : BitVec 4 := s.walk.extractLsb' 8 4

/-- `lo = WALK · 4`, the linear byte offset of the sample to copy (41_swizzle.md R145). -/
def State.walkLinear (s : State) : Nat := s.walk.toNat * 4

/-- `to = OFFX | OFFY | OFFZ`, its tiled byte offset (41_swizzle.md R145). -/
def State.walkTiled (s : State) : Nat := (s.offX ||| s.offY ||| s.offZ).toNat

/-- The counters after a walk step: the x offset always, the y offset after a row, the z offset after a slice, and
`WALK` modulo 4096 (41_swizzle.md R145). -/
def State.advanceWalk (s : State) : State :=
  { s with
    offX := nextOffset s.offX xMask
    offY := if s.walkX = 15 then nextOffset s.offY yMask else s.offY
    offZ := if s.walkX = 15 ∧ s.walkY = 15 then nextOffset s.offZ zMask else s.offZ
    walk := s.walk + 1 }

/-- One walk step (41_swizzle.md R145). `dir` is `CUR[4]`: false copies `BUFA` to `BUFB`, true `BUFB` to `BUFA`;
`deswizzle` is `CUR[0]`: false writes the tiled offset from the linear one, true the linear from the tiled. The step
that copied sample 4095 also finishes (10_state.md R46). -/
def walkStep (dir deswizzle : Bool) (s : State) : State :=
  let src := s.byteStore dir
  let dst := s.byteStore (!dir)
  let dst' :=
    if deswizzle then copySample src dst s.walkTiled s.walkLinear
    else copySample src dst s.walkLinear s.walkTiled
  let s' := (s.setByteStore (!dir) dst').advanceWalk
  if s.walkX = 15 ∧ s.walkY = 15 ∧ s.walkZ = 15 then s'.finish else s'

/-- `SWZ A>B`, one walk step (41_swizzle.md R146). -/
def execSwzAB (s : State) : Host.Outcome State Fault Refusal := .next (walkStep false false s)

/-- `SWZ B>A`, one walk step (41_swizzle.md R146). -/
def execSwzBA (s : State) : Host.Outcome State Fault Refusal := .next (walkStep true false s)

/-- `DSWZ A>B`, one walk step (41_swizzle.md R147). -/
def execDswzAB (s : State) : Host.Outcome State Fault Refusal := .next (walkStep false true s)

/-- `DSWZ B>A`, one walk step (41_swizzle.md R147). -/
def execDswzBA (s : State) : Host.Outcome State Fault Refusal := .next (walkStep true true s)

end Sys2Proof.Machine
end

