-- ==== Sys2Proof/Machine/Dispatch.lean ====
section
/-! DEFINITION. One unit step of each command (10_state.md R46). -/

namespace Sys2Proof.Machine

/-- The unit's step for the command in progress. -/
def exec (i : Instr) (s : State) : Host.Outcome State Fault Refusal :=
  match i with
  | .lin => Sys2Proof.Machine.execLin s
  | .bilin => Sys2Proof.Machine.execBilin s
  | .trilin => Sys2Proof.Machine.execTrilin s
  | .sampleA => Sys2Proof.Machine.execSampleA s
  | .sampleB => Sys2Proof.Machine.execSampleB s
  | .sampleF => Sys2Proof.Machine.execSampleF s
  | .swzAB => Sys2Proof.Machine.execSwzAB s
  | .swzBA => Sys2Proof.Machine.execSwzBA s
  | .dswzAB => Sys2Proof.Machine.execDswzAB s
  | .dswzBA => Sys2Proof.Machine.execDswzBA s

end Sys2Proof.Machine
end

