-- ==== Sys2Proof/Machine/Unit.lean ====
section
/-! DEFINITION. The unit's step (10_state.md R46): the command in `CUR` is decoded and performed. -/

namespace Sys2Proof.Machine

/-- The unit's turn: "enabled exactly when STATUS.BUSY = 1" (10_state.md R46); with `BUSY = 0` "it has no step" (R20),
and the turn passes. A `CUR` that is no command is a fault that no run reaches (log 11). -/
def unitTurn (s : State) : Host.Outcome State Fault Refusal :=
  if s.busy then
    match decode s.cur with
    | .ok i => exec i s
    | .error _ => .fault (.curNotACommand s.cur)
  else .next s

/-- Places a command word where the unit takes its next instruction: in `CUR`, as `accept` does (10_state.md R46), with
the unit's turn next (log 8). -/
def placeCommand (s : State) (w : Word) : State := (s.accept w).withEvents (.unit :: s.events)

end Sys2Proof.Machine
end

