-- ==== Sys2Proof/Machine/Step.lean ====
section
/-! DEFINITION. One step of the machine: the next turn of the environment's list. -/

namespace Sys2Proof.Machine

/-- One step. The next event decides who moves (10_state.md R45): the host with a transaction, the unit, or the reset
input; where no event is left the unit has every turn (70_reset_and_hazards.md R221; log 5). -/
def step (s : State) : Host.Outcome State Fault Refusal :=
  match s.events with
  | [] => unitTurn s
  | .unit :: es => unitTurn (s.withEvents es)
  | .host t :: es => hostStep t (s.withEvents es)
  | .rst :: es => .next (s.withEvents es).resetNow

/-- The state with the instruction of the low `nbits` bits of `w` as the unit's next one: a command arrives by value in
a `CMD` write and is held in `CUR` (10_state.md R26, R35; log 8). -/
def State.withFetchWord (s : State) (nbits w : Nat) : State := placeCommand s (BitVec.ofNat 32 (w % 2 ^ nbits))

end Sys2Proof.Machine
end

