-- ==== Sys2Proof/Safety.lean ====
section
/-! DEFINITION. The invariant of the STU's state and what a safe run is, in the terms the statements use. -/

namespace Sys2Proof.Machine

/-- The command in `CUR` is one of the four swizzle words. -/
def State.swizzling (s : State) : Prop :=
  decode s.cur = .ok .swzAB ∨ decode s.cur = .ok .swzBA ∨ decode s.cur = .ok .dswzAB ∨ decode s.cur = .ok .dswzBA

/-- What the spec says holds of the state at every step. -/
structure State.Inv (s : State) : Prop where
  /-- `BUFA` is in canonical form (log 2). -/
  bufA_wf : Memory.wf s.bufA = true
  /-- `BUFB` is in canonical form. -/
  bufB_wf : Memory.wf s.bufB = true
  /-- `FBUF` is in canonical form. -/
  fbuf_wf : Memory.wf s.fbuf = true
  /-- A command in progress is a legal one (10_state.md R35, R46). -/
  cur_legal : s.busy = true → ∃ i, decode s.cur = .ok i
  /-- `DONE` is 0 from acceptance to finish (10_state.md R34, R46). -/
  done_idle : s.busy = true → s.done = false
  /-- `ERRCODE` is 0 while `ERR = 0` and one of 1, 2, 3 while `ERR = 1` (60_exceptions.md R181). -/
  err_code : if s.err then s.errCode = 1 ∨ s.errCode = 2 ∨ s.errCode = 3 else s.errCode = 0
  /-- `WALK` is 0 but during a swizzle command (10_state.md R27). -/
  walk_idle : ¬(s.busy = true ∧ s.swizzling) → s.walk = 0
  /-- The running offsets are those of the sample `WALK` names (10_state.md R28). -/
  offX_eq : s.offX = pdep s.walkX xMask
  offY_eq : s.offY = pdep s.walkY yMask
  offZ_eq : s.offZ = pdep s.walkZ zMask

/-- What an interpolation command leaves unchanged, and that it finished: all but the result registers `dest`, `BUSY`
and `DONE` is as before (10_state.md R24, R46). The NaN seed, the model's own, counts one step (log 3). -/
structure State.InterpFrame (s t : State) (dest : List (Fin 21)) : Prop where
  regs : ∀ i : Fin 21, i ∉ dest → t.readX i = s.readX i
  ctrl : t.degen = s.degen ∧ t.ieDone = s.ieDone ∧ t.ieErr = s.ieErr
  error : t.err = s.err ∧ t.errCode = s.errCode
  finished : t.busy = false ∧ t.done = true
  latches : t.cur = s.cur ∧ t.degenL = s.degenL
  walk : t.walk = s.walk ∧ t.offX = s.offX ∧ t.offY = s.offY ∧ t.offZ = s.offZ
  bufA : ∀ a, Memory.read t.bufA a = Memory.read s.bufA a
  bufB : ∀ a, Memory.read t.bufB a = Memory.read s.bufB a
  fbuf : ∀ a, Memory.read t.fbuf a = Memory.read s.fbuf a
  environment : t.events = s.events ∧ t.response = s.response ∧ t.nanSeed = s.nanSeed + 1

/-- What a swizzle command leaves unchanged: all but the destination store, `BUSY`, `DONE` and the walk state. `dest`
names the destination store, false `BUFA`, true `BUFB` (10_state.md R24, 41_swizzle.md R145, R152). -/
structure State.SwizzleFrame (s t : State) (dest : Bool) : Prop where
  regs : ∀ i : Fin 21, t.readX i = s.readX i
  ctrl : t.degen = s.degen ∧ t.ieDone = s.ieDone ∧ t.ieErr = s.ieErr
  error : t.err = s.err ∧ t.errCode = s.errCode
  latches : t.cur = s.cur ∧ t.degenL = s.degenL
  source : ∀ a, Memory.read (t.byteStore (!dest)) a = Memory.read (s.byteStore (!dest)) a
  fbuf : ∀ a, Memory.read t.fbuf a = Memory.read s.fbuf a
  environment : t.events = s.events ∧ t.response = s.response ∧ t.nanSeed = s.nanSeed

/-- The swizzle command of a direction (`CUR[4]`: false `A>B`, true `B>A`) and a sense (`CUR[0]`: false `SWZ`, true
`DSWZ`) (30_encoding.md R93, R99). -/
def swizzleInstr (dir deswizzle : Bool) : Instr :=
  match dir, deswizzle with
  | false, false => .swzAB
  | true, false => .swzBA
  | false, true => .dswzAB
  | true, true => .dswzBA

/-- The machine never stops with a fault from a state, however many steps it takes. -/
def State.NeverFaults (s : State) : Prop := ∀ (n : Nat) (f : Fault), core.run n s ≠ .fault f

end Sys2Proof.Machine
end

