-- ==== Sys2Proof/Certificates/Slice0/Obligations.lean ====
section
/-! DEFINITION. The statements for the provers. -/

open Sys2Proof Sys2Proof.Machine

/-! ### Encoding -/

/-- 30_encoding.md R100: the legal command words are exactly these ten. -/
def Obligations.DecodeExactlyTheTenWords : Prop :=
  ∀ (w : Word) (i : Instr), decode w = .ok i ↔
    (w, i) ∈ [(0x00000001#32, Instr.lin), (0x00000002#32, Instr.bilin), (0x00000003#32, Instr.trilin),
      (0x00000004#32, Instr.sampleA), (0x00000014#32, Instr.sampleB), (0x00000024#32, Instr.sampleF),
      (0x00000008#32, Instr.swzAB), (0x00000018#32, Instr.swzBA),
      (0x00000009#32, Instr.dswzAB), (0x00000019#32, Instr.dswzBA)]

/-- Decode and encode agree, both ways: the word of an instruction decodes to it, and no other word does
(30_encoding.md R91, R100). -/
def Obligations.DecodeEncodeAgree : Prop :=
  ∀ i : Instr, i.wellFormed = true → decode (encode i) = .ok i ∧ ∀ w : Word, decode w = .ok i → w = encode i

/-- The fields that 30_encoding.md R91 to R93 allow are those whose word decodes, and the command is the one the
fields name. -/
def Obligations.LegalFieldsDecode : Prop :=
  ∀ f : Fields, f.wellFormed = true ↔ ∃ i : Instr, decode f.toWord = .ok i ∧ i.fields = f

/-- A few words written out from 30_encoding.md R100 decode to the commands they stand for. -/
def Obligations.SampleWordsDecode : Prop :=
  decode 0b00000000000000000000000000000010#32 = .ok .bilin ∧
  decode 0b00000000000000000000000000010100#32 = .ok .sampleB ∧
  decode 0b00000000000000000000000000011001#32 = .ok .dswzBA ∧
  decodeTableWord 32 0x24 = some .sampleF ∧ decodeTableWord 32 0x64 = none

/-- 30_encoding.md R94: the checks of a submitted word in their order, and what each outcome does: it raises the
`CmdError` of the first check that fails, with that check's code, or is accepted. -/
def Obligations.SubmitFollowsDecodeOrder : Prop :=
  (CmdError.code .illegalOpcode = 1 ∧ CmdError.code .reservedBits = 2 ∧ CmdError.code .reservedSel = 3) ∧
  ∀ (s : State) (w : Word),
    let opc := w.toNat % 16
    let sel := w.toNat / 16 % 4
    let high := w.toNat / 64
    let known := opc = 1 ∨ opc = 2 ∨ opc = 3 ∨ opc = 4 ∨ opc = 8 ∨ opc = 9
    let reserved := ((opc = 1 ∨ opc = 2 ∨ opc = 3) ∧ sel ≠ 0) ∨ (opc = 4 ∧ sel = 3) ∨
      ((opc = 8 ∨ opc = 9) ∧ 2 ≤ sel)
    (¬known → s.submit w = s.raiseCmdError .illegalOpcode) ∧
    (known → high ≠ 0 → s.submit w = s.raiseCmdError .reservedBits) ∧
    (known → high = 0 → reserved → s.submit w = s.raiseCmdError .reservedSel) ∧
    (known → high = 0 → ¬reserved → s.submit w = s.accept w)

/-! ### The step -/

/-- A step of the unit runs the decoded command: with the unit's turn next, or with no event left, `step` is `exec` of
the command in `CUR`, its turn taken off the list (10_state.md R46; the list is the model's, log 5). -/
def Obligations.StepRunsTheDecodedCommand : Prop :=
  ∀ (s : State) (i : Instr), i.wellFormed = true → s.busy = true → decode s.cur = .ok i →
    (s.events = [] → step s = exec i s) ∧
    (∀ es, s.events = .unit :: es → step s = exec i (s.withEvents es))

/-- The word placed by `withFetchWord` is the next one to run, from the state that accepting it gives (log 8). -/
def Obligations.PlacedWordRunsNext : Prop :=
  ∀ (s : State) (i : Instr), i.wellFormed = true →
    step (s.withFetchWord 32 (encode i).toNat) = exec i (s.accept (encode i))

/-- With `BUSY = 0` the unit has no step: its turn, and a step with no event left, change nothing but the list of
events (10_state.md R20; log 5). -/
def Obligations.IdleUnitChangesNothing : Prop :=
  ∀ s : State, s.busy = false →
    (s.events = [] → step s = .next s) ∧
    (∀ es, s.events = .unit :: es → step s = .next (s.withEvents es))

/-! ### Binary32 arithmetic -/

/-- The shared rounding: bits 30:0 of the result are those of a magnitude nearest to `n / d`, ties to the even
pattern (40_interpolate.md R121). Where the infinity begins, at half a unit in the last place above the largest finite
magnitude, is the MODEL'S choice, PRESUMED from IEEE 754 (log 14): R121 says "too large" only. -/
def Obligations.RoundUnitsNearestEven : Prop :=
  ∀ n d : Nat, 0 < d →
    (roundUnits n d < infBits →
      ∀ c : Word, isFinite c = true →
        let r := packBits false (roundUnits n d)
        |(magnitude r * d : Int) - n| ≤ |(magnitude c * d : Int) - n| ∧
        (|(magnitude r * d : Int) - n| = |(magnitude c * d : Int) - n| →
          magnitude c = magnitude r ∨ r.getLsbD 0 = false)) ∧
    (roundUnits n d = infBits ↔ (2 ^ 25 - 1) * 2 ^ 252 * d ≤ n) ∧
    roundUnits n d ≤ infBits

/-- `⊕` and `⊖` of finite operands: the exact sum or difference rounded once to nearest, ties to even; an infinity of
its sign where the exact result is too large (40_interpolate.md R121). How large is too large is the MODEL'S choice,
PRESUMED from IEEE 754 (log 14). Values are in units of 2^-149. -/
def Obligations.AddSubCorrectlyRounded : Prop :=
  ∀ (nan : NaNSource) (place : Nat) (a b : Word), isFinite a = true → isFinite b = true →
    ∀ r : Word, ∀ e : Int,
      ((r = fAdd nan place a b ∧ e = unitsInt a + unitsInt b) ∨
       (r = fSub nan place a b ∧ e = unitsInt a - unitsInt b)) →
      isNaN r = false ∧
      (isInf r = true ↔ (2 ^ 25 - 1) * 2 ^ 252 ≤ |e|) ∧
      (e ≠ 0 → signBit r = decide (e < 0)) ∧
      (isFinite r = true → ∀ c : Word, isFinite c = true →
        |unitsInt r - e| ≤ |unitsInt c - e| ∧
        (|unitsInt r - e| = |unitsInt c - e| → unitsInt c = unitsInt r ∨ r.getLsbD 0 = false))

/-- `⊗` of finite operands: the exact product rounded once to nearest, ties to even, its sign the XOR of the signs
(40_interpolate.md R121, R122). How large a product is too large is the MODEL'S choice, PRESUMED from IEEE 754
(log 14). -/
def Obligations.MulCorrectlyRounded : Prop :=
  ∀ (nan : NaNSource) (place : Nat) (a b : Word), isFinite a = true → isFinite b = true →
    let r := fMul nan place a b
    let e := unitsInt a * unitsInt b
    isNaN r = false ∧
    signBit r = (signBit a != signBit b) ∧
    (isInf r = true ↔ (2 ^ 25 - 1) * 2 ^ 252 * 2 ^ 149 ≤ |e|) ∧
    (isFinite r = true → ∀ c : Word, isFinite c = true →
      |unitsInt r * 2 ^ 149 - e| ≤ |unitsInt c * 2 ^ 149 - e| ∧
      (|unitsInt r * 2 ^ 149 - e| = |unitsInt c * 2 ^ 149 - e| → unitsInt c = unitsInt r ∨ r.getLsbD 0 = false))

/-- `⊘` of finite operands with a divisor that is not zero: the exact quotient rounded once to nearest, ties to even,
its sign the XOR of the signs (40_interpolate.md R121, R122). How large a quotient is too large is the MODEL'S choice,
PRESUMED from IEEE 754 (log 14). -/
def Obligations.DivCorrectlyRounded : Prop :=
  ∀ (nan : NaNSource) (place : Nat) (a b : Word), isFinite a = true → isFinite b = true → isZero b = false →
    let r := fDiv nan place a b
    let e := unitsInt a * 2 ^ 149
    isNaN r = false ∧
    signBit r = (signBit a != signBit b) ∧
    (isInf r = true ↔ (2 ^ 25 - 1) * 2 ^ 252 * |unitsInt b| ≤ |e|) ∧
    (isFinite r = true → ∀ c : Word, isFinite c = true →
      |unitsInt r * unitsInt b - e| ≤ |unitsInt c * unitsInt b - e| ∧
      (|unitsInt r * unitsInt b - e| = |unitsInt c * unitsInt b - e| →
        unitsInt c = unitsInt r ∨ r.getLsbD 0 = false))

/-- The table of special operands, row by row (40_interpolate.md R122). -/
def Obligations.SpecialOperandTable : Prop :=
  ∀ (nan : NaNSource) (place : Nat) (a b : Word),
    let neg := signBit a != signBit b
    (isFinite a = true → fSub nan place a a = 0x00000000#32) ∧
    (fAdd nan place 0x00000000#32 0x80000000#32 = 0x00000000#32 ∧
      fAdd nan place 0x80000000#32 0x00000000#32 = 0x00000000#32) ∧
    (fAdd nan place 0x80000000#32 0x80000000#32 = 0x80000000#32) ∧
    (isFinite a = true → isZero a = false → isZero b = true →
      isInf (fDiv nan place a b) = true ∧ signBit (fDiv nan place a b) = neg) ∧
    (isZero a = true → isZero b = true → isNaN (fDiv nan place a b) = true) ∧
    (isInf a = true → isInf b = true → isNaN (fDiv nan place a b) = true) ∧
    (isInf a = true → isZero b = true →
      isNaN (fMul nan place a b) = true ∧ isNaN (fMul nan place b a) = true) ∧
    (isInf a = true → isInf b = true →
      (isNaN (fAdd nan place a b) = true ↔ signBit a ≠ signBit b) ∧
      (isNaN (fSub nan place a b) = true ↔ signBit a = signBit b)) ∧
    (isFinite a = true → isInf b = true →
      isZero (fDiv nan place a b) = true ∧ signBit (fDiv nan place a b) = neg) ∧
    (isInf a = true → isFinite b = true → fAdd nan place a b = a ∧ fAdd nan place b a = a) ∧
    (isInf a = true → isFinite b = true → isZero b = false →
      isInf (fMul nan place a b) = true ∧ signBit (fMul nan place a b) = neg) ∧
    (isNaN a = true ∨ isNaN b = true →
      isNaN (fAdd nan place a b) = true ∧ isNaN (fSub nan place a b) = true ∧
      isNaN (fMul nan place a b) = true ∧ isNaN (fDiv nan place a b) = true) ∧
    (isZero (fMul nan place a b) = true → signBit (fMul nan place a b) = neg) ∧
    (isZero (fDiv nan place a b) = true → signBit (fDiv nan place a b) = neg)

/-- A NaN that an operation delivers is a quiet one, whatever the free bits and whichever kind of NaN the operands are;
and it can be any quiet NaN: for each there are free bits that give it (40_interpolate.md R123). -/
def Obligations.DeliveredNaNsAreQuiet : Prop :=
  (∀ (nan : NaNSource) (place : Nat) (a b r : Word),
    r = fAdd nan place a b ∨ r = fSub nan place a b ∨ r = fMul nan place a b ∨ r = fDiv nan place a b →
    isNaN r = true → isQuietNaN r = true) ∧
  (∀ q : Word, isQuietNaN q = true → ∃ nan : NaNSource, ∀ (place : Nat) (a b r : Word),
    r = fAdd nan place a b ∨ r = fSub nan place a b ∨ r = fMul nan place a b ∨ r = fDiv nan place a b →
    isNaN r = true → r = q)

/-- The binary32 value of a whole number below 2^24 is exact (00_scope.md R8 uses it up to 255). -/
def Obligations.WholeNumbersConvertExactly : Prop :=
  ∀ n : Nat, n < 2 ^ 24 →
    isFinite (f32OfNat n) = true ∧ signBit (f32OfNat n) = false ∧ unitsInt (f32OfNat n) = n * 2 ^ 149

/-! ### The interpolation functions -/

/-- The degenerate interval with the bypass: `f0` bit for bit, whatever the other operands are
(40_interpolate.md R125). -/
def Obligations.LinBypassReturnsLowerCorner : Prop :=
  ∀ (nan : NaNSource) (place : Nat) (x x0 x1 f0 f1 : Word),
    isNaN x0 = false → isNaN x1 = false → (x0 = x1 ∨ (isZero x0 = true ∧ isZero x1 = true)) →
    lin nan place true x x0 x1 f0 f1 = f0

/-- The degenerate interval without the bypass, finite operands: NaN where the point is on the bound or the corners
are equal, an infinity otherwise (40_interpolate.md R125, R128). -/
def Obligations.LinDegenerateIsIEEE : Prop :=
  ∀ (nan : NaNSource) (place : Nat) (x x0 x1 f0 f1 : Word),
    isFinite x = true → isFinite x0 = true → isFinite f0 = true → isFinite f1 = true → fEq x0 x1 = true →
    let r := lin nan place false x x0 x1 f0 f1
    (fEq x x0 = true ∨ fEq f0 f1 = true → isQuietNaN r = true) ∧
    (fEq x x0 = false → fEq f0 f1 = false → isInf r = true)

/-- A NaN in any operand gives a NaN, but where the bypass is taken (40_interpolate.md R128). -/
def Obligations.LinNaNOperandGivesNaN : Prop :=
  ∀ (nan : NaNSource) (place : Nat) (dg : Bool) (x x0 x1 f0 f1 : Word),
    (dg && fEq x0 x1) = false →
    (isNaN x = true ∨ isNaN x0 = true ∨ isNaN x1 = true ∨ isNaN f0 = true ∨ isNaN f1 = true) →
    isQuietNaN (lin nan place dg x x0 x1 f0 f1) = true

/-- With bounds 0 and 1, `lin` at 0 is the lower corner where the difference is finite, and at 1 the upper corner where
the difference is exactly representable, as values (40_interpolate.md R131). -/
def Obligations.LinUnitBoundsEnds : Prop :=
  ∀ (nan : NaNSource) (place : Nat) (dg : Bool) (f0 f1 : Word), isFinite f0 = true → isFinite f1 = true →
    (isFinite (fSub nan (place + 3) f1 f0) = true →
      fEq (lin nan place dg 0x00000000#32 0x00000000#32 0x3F800000#32 f0 f1) f0 = true) ∧
    (∀ d : Word, isFinite d = true → unitsInt d = unitsInt f1 - unitsInt f0 →
      fEq (lin nan place dg 0x3F800000#32 0x00000000#32 0x3F800000#32 f0 f1) f1 = true)

/-- The document's test property on byte data, at the eight corners: with unit bounds `trilin` at corner `c` is the
value of corner `c`, exactly (40_interpolate.md R131). -/
def Obligations.TrilinUnitCubeCorners : Prop :=
  ∀ (nan : NaNSource) (place : Nat) (dg : Bool) (b : Fin 8 → Byte) (c : Fin 8),
    let at1 := fun (k : Nat) => if c.val.testBit k then 0x3F800000#32 else 0x00000000#32
    let f := fun (k : Fin 8) => f32OfNat (b k).toNat
    trilin nan place dg (at1 0) (at1 1) (at1 2) 0x00000000#32 0x3F800000#32 0x00000000#32 0x3F800000#32
      0x00000000#32 0x3F800000#32 #v[f 0, f 1, f 2, f 3, f 4, f 5, f 6, f 7] = f c

/-- The document's test property on byte data, at the centre: the arithmetic mean of the eight corners, exactly
(40_interpolate.md R131). -/
def Obligations.TrilinUnitCubeCentre : Prop :=
  ∀ (nan : NaNSource) (place : Nat) (dg : Bool) (b : Fin 8 → Byte),
    let f := fun (k : Fin 8) => f32OfNat (b k).toNat
    let r := trilin nan place dg 0x3F000000#32 0x3F000000#32 0x3F000000#32 0x00000000#32 0x3F800000#32
      0x00000000#32 0x3F800000#32 0x00000000#32 0x3F800000#32 #v[f 0, f 1, f 2, f 3, f 4, f 5, f 6, f 7]
    isFinite r = true ∧
    8 * unitsInt r = ((b 0).toNat + (b 1).toNat + (b 2).toNat + (b 3).toNat + (b 4).toNat + (b 5).toNat
      + (b 6).toNat + (b 7).toNat) * 2 ^ 149

/-! ### LIN, BILIN, TRILIN -/

/-- `LIN` completes from every state: `x[17]` is `lin(x[14], x[8], x[9], x[0], x[1], DEGENL)`, and nothing else changes
but `BUSY` and `DONE` (40_interpolate.md R128, 10_state.md R24). -/
def Obligations.LinCompletes : Prop :=
  ∀ s : State, ∃ t, exec .lin s = .next t ∧
    t.readX 17 = lin (Config.qnanBits s.nanSeed) 0 s.degenL (s.readX 14) (s.readX 8) (s.readX 9) (s.readX 0) (s.readX 1) ∧
    s.InterpFrame t [17]

/-- `BILIN` completes from every state: the result of 40_interpolate.md R126 on the registers R129 names, and nothing
else changes but `BUSY` and `DONE`. -/
def Obligations.BilinCompletes : Prop :=
  ∀ s : State, ∃ t, exec .bilin s = .next t ∧
    (∀ nan, nan = Config.qnanBits s.nanSeed →
      t.readX 17 = lin nan 12 s.degenL (s.readX 15) (s.readX 10) (s.readX 11)
        (lin nan 0 s.degenL (s.readX 14) (s.readX 8) (s.readX 9) (s.readX 0) (s.readX 1))
        (lin nan 6 s.degenL (s.readX 14) (s.readX 8) (s.readX 9) (s.readX 2) (s.readX 3))) ∧
    s.InterpFrame t [17]

/-- `TRILIN` completes from every state: the result of 40_interpolate.md R127 on the registers R130 names, and nothing
else changes but `BUSY` and `DONE`. -/
def Obligations.TrilinCompletes : Prop :=
  ∀ s : State, ∃ t, exec .trilin s = .next t ∧
    (∀ nan, nan = Config.qnanBits s.nanSeed →
      t.readX 17 = lin nan 36 s.degenL (s.readX 16) (s.readX 12) (s.readX 13)
        (bilin nan 0 s.degenL (s.readX 14) (s.readX 15) (s.readX 8) (s.readX 9) (s.readX 10) (s.readX 11)
          (s.readX 0) (s.readX 1) (s.readX 2) (s.readX 3))
        (bilin nan 18 s.degenL (s.readX 14) (s.readX 15) (s.readX 8) (s.readX 9) (s.readX 10) (s.readX 11)
          (s.readX 4) (s.readX 5) (s.readX 6) (s.readX 7))) ∧
    s.InterpFrame t [17]

/-! ### SAMPLE -/

/-- The index pair of a scaled coordinate (42_sample.md R162): 0 for a NaN and minus infinity, 15 for plus infinity, and
floor and ceil clamped to 0..15 for a finite value. -/
def Obligations.SampleIndicesClampFloorCeil : Prop :=
  ∀ v : Word,
    (isNaN v = true → lowerIndex v = 0 ∧ upperIndex v = 0) ∧
    (v = 0xFF800000#32 → lowerIndex v = 0 ∧ upperIndex v = 0) ∧
    (v = 0x7F800000#32 → lowerIndex v = 15 ∧ upperIndex v = 15) ∧
    (isFinite v = true → ∀ n : Int,
      (n * 2 ^ 149 ≤ unitsInt v → unitsInt v < (n + 1) * 2 ^ 149 → (lowerIndex v : Int) = max 0 (min n 15)) ∧
      ((n - 1) * 2 ^ 149 < unitsInt v → unitsInt v ≤ n * 2 ^ 149 → (upperIndex v : Int) = max 0 (min n 15))) ∧
    lowerIndex v ≤ upperIndex v ∧ upperIndex v ≤ lowerIndex v + 1 ∧ upperIndex v ≤ 15

/-- `SAMPLE A`, `SAMPLE B` and `SAMPLE F`, whole (42_sample.md R161, R163 to R166, R169). The located cell is `PX`, `PY`,
`PZ` each times `15.0` with the indices of those; the element of corner `c` takes its three coordinates by the bits of
`c`; the value of an element is the byte's number or the stored pattern. Where the 32 elements have been written the
command completes: lane `ch` gives `x[17 + ch]` the `trilin` of its eight corner values at the scaled point with the
indices as bounds, and nothing else changes but `BUSY` and `DONE`. That a byte stands for its own number is the spec's
default of `BYTE_CONV`, the MODEL'S choice (log 4); the seed of the free NaN bits is the model's own (log 3). -/
def Obligations.SampleCompletes : Prop :=
  ∀ (i : Instr) (st : StoreName),
    ((i = .sampleA ∧ st = .bufA) ∨ (i = .sampleB ∧ st = .bufB) ∨ (i = .sampleF ∧ st = .fbuf)) →
    ∀ s : State,
      let nan := Config.qnanBits s.nanSeed
      let sx := fMul nan 0 (s.readX 14) 0x41700000#32
      let sy := fMul nan 1 (s.readX 15) 0x41700000#32
      let sz := fMul nan 2 (s.readX 16) 0x41700000#32
      let index := fun (c : Fin 8) (ch : Fin 4) =>
        (((if c.val.testBit 2 then upperIndex sz else lowerIndex sz) * 16 +
          (if c.val.testBit 1 then upperIndex sy else lowerIndex sy)) * 16 +
          (if c.val.testBit 0 then upperIndex sx else lowerIndex sx)) * 4 + ch.val
      s.gridCell =
        { sx := sx, sy := sy, sz := sz, x0 := lowerIndex sx, x1 := upperIndex sx, y0 := lowerIndex sy,
          y1 := upperIndex sy, z0 := lowerIndex sz, z1 := upperIndex sz } ∧
      (∀ (c : Fin 8) (ch : Fin 4), cornerElement s.gridCell c ch.val = index c ch) ∧
      (∀ e : Nat,
        s.element byteConv .bufA e = (Memory.read s.bufA e).map (fun b => f32OfNat b.toNat) ∧
        s.element byteConv .bufB e = (Memory.read s.bufB e).map (fun b => f32OfNat b.toNat) ∧
        s.element byteConv .fbuf e = Memory.read s.fbuf e) ∧
      ∀ v : Fin 4 → Vector Word 8,
        (∀ (ch : Fin 4) (c : Fin 8), s.element byteConv st (index c ch) = some ((v ch)[c])) →
        ∃ t, exec i s = .next t ∧
          (∀ ch : Fin 4, t.readX ⟨17 + ch.val, by omega⟩ =
            trilin nan (3 + 42 * ch.val) s.degenL sx sy sz
              (f32OfNat (lowerIndex sx)) (f32OfNat (upperIndex sx)) (f32OfNat (lowerIndex sy)) (f32OfNat (upperIndex sy))
              (f32OfNat (lowerIndex sz)) (f32OfNat (upperIndex sz)) (v ch)) ∧
          s.InterpFrame t [17, 18, 19, 20]

/-- `SAMPLE` on a grid plane, beyond an edge or at a NaN coordinate, with `DEGENL = 0`: all four results are NaN,
whatever the table holds and whatever `BYTE_CONV` is (42_sample.md R167, R168). -/
def Obligations.SampleDegenerateAllNaN : Prop :=
  ∀ (conv : Byte → Word) (st : StoreName) (s t : State), s.degenL = false →
    (s.gridCell.x0 = s.gridCell.x1 ∨ s.gridCell.y0 = s.gridCell.y1 ∨ s.gridCell.z0 = s.gridCell.z1) →
    sampleStore conv st s = .next t →
    isQuietNaN (t.readX 17) = true ∧ isQuietNaN (t.readX 18) = true ∧
    isQuietNaN (t.readX 19) = true ∧ isQuietNaN (t.readX 20) = true

/-- `SAMPLE` at a node of the grid, or at a point whose clamped indices coincide on every axis, with `DEGENL = 1`: the
four stored elements, exactly, and the command completes (42_sample.md R167, R168). -/
def Obligations.SampleNodeBypassIsStoredSample : Prop :=
  ∀ (conv : Byte → Word) (st : StoreName) (s : State) (v : Fin 4 → Word), s.degenL = true →
    s.gridCell.x0 = s.gridCell.x1 → s.gridCell.y0 = s.gridCell.y1 → s.gridCell.z0 = s.gridCell.z1 →
    (∀ ch : Fin 4, s.element conv st
      (((s.gridCell.z0 * 16 + s.gridCell.y0) * 16 + s.gridCell.x0) * 4 + ch.val) = some (v ch)) →
    ∃ t, sampleStore conv st s = .next t ∧
      t.readX 17 = v 0 ∧ t.readX 18 = v 1 ∧ t.readX 19 = v 2 ∧ t.readX 20 = v 3

/-- `SAMPLE` depends only on the point, the latched mode and the 32 elements `e(c, ch)` (42_sample.md R169; the seed of
the free NaN bits is the model's, log 3): two states that agree on them give the same results. -/
def Obligations.SampleDependsOnItsElementsOnly : Prop :=
  ∀ (conv : Byte → Word) (st : StoreName) (s u t : State),
    u.readX 14 = s.readX 14 → u.readX 15 = s.readX 15 → u.readX 16 = s.readX 16 →
    u.degenL = s.degenL → u.nanSeed = s.nanSeed →
    (∀ (c : Fin 8) (ch : Fin 4), u.element conv st (cornerElement s.gridCell c ch.val) =
      s.element conv st (cornerElement s.gridCell c ch.val)) →
    sampleStore conv st s = .next t →
    ∃ t', sampleStore conv st u = .next t' ∧
      t'.readX 17 = t.readX 17 ∧ t'.readX 18 = t.readX 18 ∧ t'.readX 19 = t.readX 19 ∧ t'.readX 20 = t.readX 20

/-- A `SAMPLE` that reads an element nothing has written is refused (70_reset_and_hazards.md R214; log 2). -/
def Obligations.SampleOfUnwrittenIsRefused : Prop :=
  ∀ (i : Instr) (st : StoreName),
    ((i = .sampleA ∧ st = .bufA) ∨ (i = .sampleB ∧ st = .bufB) ∨ (i = .sampleF ∧ st = .fbuf)) →
    ∀ (s : State) (c : Fin 8) (ch : Fin 4), s.element byteConv st (cornerElement s.gridCell c ch.val) = none →
      exec i s = .refused (.unwritten st)

/-! ### SWZ, DSWZ -/

/-- The five fixed points of the document (41_swizzle.md R141). -/
def Obligations.TiledFixedPoints : Prop :=
  tiledOffset 0 0 0 = 0 ∧ tiledOffset 15 0 0 = 300 ∧ tiledOffset 0 15 0 = 8400 ∧ tiledOffset 0 0 15 = 7680 ∧
  tiledOffset 15 15 15 = 16380

/-- The tiled offset in closed form, and coordinate bit by coordinate bit its weights: the OR is the arithmetic sum
(41_swizzle.md R143). -/
def Obligations.TiledOffsetWeights : Prop :=
  ∀ x y z : BitVec 4,
    tiledOffset x y z = pdep x 0x012C#14 ||| pdep y 0x20D0#14 ||| pdep z 0x1E00#14 ∧
    let w := fun (b : Bool) (n : Nat) => if b then n else 0
    (tiledOffset x y z).toNat =
      w (x.getLsbD 0) 4 + w (x.getLsbD 1) 8 + w (x.getLsbD 2) 32 + w (x.getLsbD 3) 256 +
      w (y.getLsbD 0) 16 + w (y.getLsbD 1) 64 + w (y.getLsbD 2) 128 + w (y.getLsbD 3) 8192 +
      w (z.getLsbD 0) 512 + w (z.getLsbD 1) 1024 + w (z.getLsbD 2) 2048 + w (z.getLsbD 3) 4096

/-- `tiled` is a bijection from the 4096 grid cells onto the multiples of 4 (41_swizzle.md R148). -/
def Obligations.TiledIsBijection : Prop :=
  (∀ x y z x' y' z' : BitVec 4, tiledOffset x y z = tiledOffset x' y' z' → x = x' ∧ y = y' ∧ z = z') ∧
  (∀ x y z : BitVec 4, (tiledOffset x y z).toNat % 4 = 0) ∧
  (∀ o : Offset, o.toNat % 4 = 0 → ∃ x y z : BitVec 4, tiledOffset x y z = o)

/-- The increment is the subtraction modulo 2^14, then the mask; it takes the deposit of a coordinate to the deposit of
the next, and the whole mask, coordinate 15, to 0 (41_swizzle.md R144). -/
def Obligations.IncrementIsNextDeposit : Prop :=
  (∀ o m : Offset, (nextOffset o m).toNat = (o.toNat + (2 ^ 14 - m.toNat)) % 2 ^ 14 &&& m.toNat) ∧
  ∀ m : Offset, m = 0x012C#14 ∨ m = 0x20D0#14 ∨ m = 0x1E00#14 →
    (∀ v : BitVec 4, nextOffset (pdep v m) m = pdep (v + 1) m) ∧ pdep 15 m = m ∧ nextOffset m m = 0

/-- One walk step of `SWZ A>B`, `SWZ B>A`, `DSWZ A>B` and `DSWZ B>A`, from every state (41_swizzle.md R145): the step
completes; the four bytes at the offset it writes are the source's, every other byte is as before; the counters
advance; the step that copied sample 4095 finishes. -/
def Obligations.WalkStepCompletes : Prop :=
  ∀ (dir deswizzle : Bool) (s : State),
    let lo := s.walk.toNat * 4
    let tiled := (s.offX ||| s.offY ||| s.offZ).toNat
    let fromOff := if deswizzle then tiled else lo
    let toOff := if deswizzle then lo else tiled
    let x := s.walk.toNat % 16
    let y := s.walk.toNat / 16 % 16
    ∃ t, exec (swizzleInstr dir deswizzle) s = .next t ∧
      (∀ k, k < 4 → Memory.read (t.byteStore (!dir)) (toOff + k) = Memory.read (s.byteStore dir) (fromOff + k)) ∧
      (∀ a, a < toOff ∨ toOff + 4 ≤ a → Memory.read (t.byteStore (!dir)) a = Memory.read (s.byteStore (!dir)) a) ∧
      t.offX = (s.offX - 0x012C#14) &&& 0x012C#14 ∧
      t.offY = (if x = 15 then (s.offY - 0x20D0#14) &&& 0x20D0#14 else s.offY) ∧
      t.offZ = (if x = 15 ∧ y = 15 then (s.offZ - 0x1E00#14) &&& 0x1E00#14 else s.offZ) ∧
      t.walk.toNat = (s.walk.toNat + 1) % 4096 ∧
      t.busy = (if s.walk.toNat = 4095 then false else s.busy) ∧
      t.done = (if s.walk.toNat = 4095 then true else s.done) ∧
      s.SwizzleFrame t (!dir)

/-- The net effect of `SWZ` (41_swizzle.md R146): accepted by the unit and given 4096 steps, it has copied every sample
from its linear to its tiled offset, left the source and everything else as it was, and finished. -/
def Obligations.SwizzleNetEffect : Prop :=
  ∀ (dir : Bool) (s : State), s.events = [] →
    ∃ t, Host.Core.run core 4096 (s.accept (if dir then 0x00000018#32 else 0x00000008#32)) = .next t ∧
      (∀ (x y z : BitVec 4) (k : Nat), k < 4 →
        Memory.read (t.byteStore (!dir)) ((tiledOffset x y z).toNat + k) =
        Memory.read (s.byteStore dir) (((z.toNat * 16 + y.toNat) * 16 + x.toNat) * 4 + k)) ∧
      t.busy = false ∧ t.done = true ∧ t.walk = 0 ∧ t.offX = 0 ∧ t.offY = 0 ∧ t.offZ = 0 ∧
      (s.accept (if dir then 0x00000018#32 else 0x00000008#32)).SwizzleFrame t (!dir)

/-- The net effect of `DSWZ` (41_swizzle.md R147): every sample copied from its tiled to its linear offset. -/
def Obligations.DeswizzleNetEffect : Prop :=
  ∀ (dir : Bool) (s : State), s.events = [] →
    ∃ t, Host.Core.run core 4096 (s.accept (if dir then 0x00000019#32 else 0x00000009#32)) = .next t ∧
      (∀ (x y z : BitVec 4) (k : Nat), k < 4 →
        Memory.read (t.byteStore (!dir)) (((z.toNat * 16 + y.toNat) * 16 + x.toNat) * 4 + k) =
        Memory.read (s.byteStore dir) ((tiledOffset x y z).toNat + k)) ∧
      t.busy = false ∧ t.done = true ∧ t.walk = 0 ∧ t.offX = 0 ∧ t.offY = 0 ∧ t.offZ = 0 ∧
      (s.accept (if dir then 0x00000019#32 else 0x00000009#32)).SwizzleFrame t (!dir)

/-- The round trip (41_swizzle.md R149): `DSWZ A>B` then `SWZ B>A`, and `SWZ A>B` then `DSWZ B>A`, leave every byte of
`BUFA` as it was. -/
def Obligations.SwizzleRoundTrip : Prop :=
  ∀ s : State, s.events = [] →
    (∃ t u, Host.Core.run core 4096 (s.accept 0x00000009#32) = .next t ∧
      Host.Core.run core 4096 (t.accept 0x00000018#32) = .next u ∧
      ∀ a, a < 16384 → Memory.read u.bufA a = Memory.read s.bufA a) ∧
    (∃ t u, Host.Core.run core 4096 (s.accept 0x00000008#32) = .next t ∧
      Host.Core.run core 4096 (t.accept 0x00000019#32) = .next u ∧
      ∀ a, a < 16384 → Memory.read u.bufA a = Memory.read s.bufA a)

/-! ### Whole-machine rules about commands -/

/-- `CTRL` has no say in a command in progress: a write to it before the unit's step only changes `CTRL`, for every
command (70_reset_and_hazards.md R217, 10_state.md R29). -/
def Obligations.CtrlWriteDoesNotReachTheCommand : Prop :=
  ∀ (i : Instr) (s : State) (v : Word),
    (∀ t, exec i s = .next t → exec i (s.writeCtrl v) = .next (t.writeCtrl v)) ∧
    (∀ r, exec i s = .refused r → exec i (s.writeCtrl v) = .refused r) ∧
    (∀ f, exec i s ≠ .fault f)

/-- No command touches `CTRL`, `ERR`, `ERRCODE`, the latches or the environment (10_state.md R21, R24, R29,
70_reset_and_hazards.md R220): whatever it does, it leaves them. -/
def Obligations.CommandsKeepControlAndErrors : Prop :=
  ∀ (i : Instr) (s t : State), exec i s = .next t →
    t.degen = s.degen ∧ t.ieDone = s.ieDone ∧ t.ieErr = s.ieErr ∧ t.err = s.err ∧ t.errCode = s.errCode ∧
    t.cur = s.cur ∧ t.degenL = s.degenL ∧ t.events = s.events ∧ t.response = s.response

/-- The end of an operation: "BUSY becomes 0 and DONE becomes 1 in the same step" (70_reset_and_hazards.md R223), and
the interrupt line then shows `IE_DONE` (60_exceptions.md R189). -/
def Obligations.BusyFallsAsDoneRises : Prop :=
  ∀ (i : Instr) (s t : State), s.busy = true → s.done = false → exec i s = .next t →
    t.done = !t.busy ∧ (t.busy = false → t.irq = (s.ieDone || (s.ieErr && s.err)))

/-- Every accepted command ends: within 4096 unit steps `BUSY` is 0, unless the command is a `SAMPLE` and is refused for
an element of its own store that nothing has written (70_reset_and_hazards.md R221; the refusal is the model's choice,
log 2). -/
def Obligations.CommandsTerminate : Prop :=
  ∀ s : State, s.Inv → s.busy = true → s.events = [] →
    ∃ n, 0 < n ∧ n ≤ 4096 ∧
      ((∃ t, Host.Core.run core n s = .next t ∧ t.busy = false ∧ t.done = true) ∨
        (∃ st, Host.Core.run core n s = .refused (.unwritten st) ∧
          ((decode s.cur = .ok .sampleA ∧ st = .bufA) ∨ (decode s.cur = .ok .sampleB ∧ st = .bufB) ∨
            (decode s.cur = .ok .sampleF ∧ st = .fbuf))))

/-! ### The host port -/

/-- The causes of a `BusError` in the order they are checked, by address (60_exceptions.md R185). -/
def Obligations.BusErrorCausesInOrder : Prop :=
  ∀ (t : HostTxn) (busy : Bool),
    let a := t.addr.toNat
    let unmapped := (0x08000 ≤ a ∧ a ≤ 0x0FFFF) ∨ (0x20010 ≤ a ∧ a ≤ 0x2003F) ∨ (0x20094 ≤ a ∧ a ≤ 0x3FFFF)
    let narrow := t.isWide = false ∧ 0x10000 ≤ a
    let misaligned := t.isWide = true ∧ a % 4 ≠ 0
    let direction := (a = 0x20000 ∧ t.isWrite = true) ∨ (a = 0x2000C ∧ t.isWrite = false)
    let lockedOut := busy = true ∧ ¬(0x20000 ≤ a ∧ a < 0x2000C)
    (checkTxn t busy = .error .unmapped ↔ unmapped) ∧
    (checkTxn t busy = .error .width ↔ ¬unmapped ∧ narrow) ∧
    (checkTxn t busy = .error .misaligned ↔ ¬unmapped ∧ ¬narrow ∧ misaligned) ∧
    (checkTxn t busy = .error .direction ↔ ¬unmapped ∧ ¬narrow ∧ ¬misaligned ∧ direction) ∧
    (checkTxn t busy = .error .busy ↔ ¬unmapped ∧ ¬narrow ∧ ¬misaligned ∧ ¬direction ∧ lockedOut)

/-- A refused transaction changes no state: the next state differs only in the model's own event list and response
(60_exceptions.md R186, 20_memory.md R61; log 5, log 6). -/
def Obligations.BusErrorChangesNothing : Prop :=
  ∀ (s : State) (t : HostTxn) (es : List Event) (c : BusCause),
    s.events = .host t :: es → checkTxn t s.busy = .error c →
    step s = .next { s with events := es, response := some .busError }

/-- Busy lock-out (20_memory.md R67): while `BUSY = 1` a transaction of any width and direction to any address but those
of `ID`, `CTRL` and `STATUS` is a `BusError` and changes no state (but the model's own event list and response, log 5,
log 6); those three are as accessible as while the unit is idle. -/
def Obligations.BusyLocksOutTheHost : Prop :=
  (∀ (s : State) (t : HostTxn) (es : List Event), s.busy = true → s.events = .host t :: es →
    t.addr.toNat < 0x20000 ∨ 0x2000C ≤ t.addr.toNat →
    step s = .next { s with events := es, response := some .busError }) ∧
  (∀ t : HostTxn, 0x20000 ≤ t.addr.toNat → t.addr.toNat < 0x2000C → checkTxn t true = checkTxn t false)

/-- `ID`, `CTRL` and `STATUS` answer a 4-byte read at any time, with no other effect (10_state.md R31, R32,
20_memory.md R66). -/
def Obligations.ControlReadsAnswer : Prop :=
  ∀ (s : State) (es : List Event),
    (s.events = .host (.read4 0x20000#18) :: es →
      step s = .next { s with events := es, response := some (.okWord 0x53540414#32) }) ∧
    (s.events = .host (.read4 0x20004#18) :: es →
      step s = .next { s with events := es, response := some (.okWord s.ctrlWord) }) ∧
    (s.events = .host (.read4 0x20008#18) :: es →
      step s = .next { s with events := es, response := some (.okWord s.statusWord) })

/-- The bits of the two words, and the reserved bits at 0 (10_state.md R33, R34). -/
def Obligations.ControlWordLayout : Prop :=
  ∀ (s : State) (i : Nat),
    s.ctrlWord.getLsbD i = (if i = 0 then s.degen else if i = 1 then s.ieDone else if i = 2 then s.ieErr else false) ∧
    s.statusWord.getLsbD i =
      (if i = 0 then s.busy else if i = 1 then s.done else if i = 2 then s.err
       else if 4 ≤ i ∧ i ≤ 7 then s.errCode.getLsbD (i - 4) else false)

/-- A write of `CTRL`, at any time, sets its three bits, and a read of it then gives them with the reserved bits 0
(10_state.md R33, 20_memory.md R66). -/
def Obligations.CtrlWriteThenRead : Prop :=
  ∀ (s : State) (es : List Event) (v : Word),
    s.events = .host (.write4 0x20004#18 v) :: .host (.read4 0x20004#18) :: es →
    ∃ t u, step s = .next t ∧ step t = .next u ∧
      u.degen = v.getLsbD 0 ∧ u.ieDone = v.getLsbD 1 ∧ u.ieErr = v.getLsbD 2 ∧
      u.response = some (.okWord (v &&& 7#32)) ∧
      u = { s with degen := u.degen, ieDone := u.ieDone, ieErr := u.ieErr, events := es, response := u.response }

/-- Write-1-to-clear (10_state.md R34): at any time a write of `STATUS` clears `DONE` by bit 1 and `ERR` with `ERRCODE`
by bit 2, and changes nothing else. -/
def Obligations.StatusWriteOneToClear : Prop :=
  ∀ (s : State) (es : List Event) (v : Word), s.events = .host (.write4 0x20008#18 v) :: es →
    ∃ t, step s = .next t ∧
      t.done = (if v.getLsbD 1 then false else s.done) ∧
      t.err = (if v.getLsbD 2 then false else s.err) ∧
      t.errCode = (if v.getLsbD 2 then 0 else s.errCode) ∧
      t = { s with done := t.done, err := t.err, errCode := t.errCode, events := es, response := some .ok }

/-- An illegal word written to `CMD` while the unit is idle (60_exceptions.md R184, R181): `ERR` is set, the first code
is kept, the transaction returns `OK`, and nothing else changes. -/
def Obligations.IllegalWordRecordsFirstError : Prop :=
  ∀ (s : State) (es : List Event) (w : Word) (e : CmdError),
    s.events = .host (.write4 0x2000C#18 w) :: es → s.busy = false → decode w = .error e →
    step s = .next { s with
      err := true
      errCode := if s.err then s.errCode else
        (match e with
         | .illegalOpcode => 1
         | .reservedBits => 2
         | .reservedSel => 3)
      events := es
      response := some .ok }

/-- A legal word written to `CMD` while the unit is idle is accepted, whatever `ERR` is (10_state.md R35, R46,
60_exceptions.md R191). -/
def Obligations.LegalWordIsAccepted : Prop :=
  ∀ (s : State) (es : List Event) (w : Word) (i : Instr),
    s.events = .host (.write4 0x2000C#18 w) :: es → s.busy = false → decode w = .ok i →
    step s = .next { s with
      cur := w, degenL := s.degen, walk := 0, offX := 0, offY := 0, offZ := 0, done := false, busy := true
      events := es, response := some .ok }

/-- An operand register is read back as the 32 bits written, unconverted, and no other register changes
(10_state.md R23, 20_memory.md R62). -/
def Obligations.OperandRegisterHoldsRawBits : Prop :=
  ∀ (s : State) (es : List Event) (i : Fin 21) (v : Word), s.busy = false →
    s.events = .host (.write4 (BitVec.ofNat 18 (0x20040 + 4 * i.val)) v) ::
      .host (.read4 (BitVec.ofNat 18 (0x20040 + 4 * i.val))) :: es →
    ∃ t u, step s = .next t ∧ step t = .next u ∧ u.response = some (.okWord v) ∧
      (∀ j : Fin 21, u.readX j = if j = i then v else s.readX j) ∧
      u = { s with x := u.x, events := es, response := u.response }

/-- Element `i` of `FBUF` is at `0x10000 + 4·i`, is read back as written, and no other element changes
(20_memory.md R62, R66, R71). -/
def Obligations.FbufElementHoldsItsWord : Prop :=
  ∀ (s : State) (es : List Event) (i : Nat) (v : Word), i < 16384 → s.busy = false →
    s.events = .host (.write4 (BitVec.ofNat 18 (0x10000 + 4 * i)) v) ::
      .host (.read4 (BitVec.ofNat 18 (0x10000 + 4 * i))) :: es →
    ∃ t u, step s = .next t ∧ step t = .next u ∧ u.response = some (.okWord v) ∧
      (∀ j, Memory.read u.fbuf j = if j = i then some v else Memory.read s.fbuf j) ∧
      u = { s with fbuf := u.fbuf, events := es, response := u.response }

/-- Writes and reads of `BUFA` (host address 0) and `BUFB` (host address 0x4000), both widths, little-endian
(20_memory.md R65, R66). After a 4-byte write of `v` at an aligned offset, a 1-byte read at that offset plus `k` gives
bits `8k+7:8k` of `v` and a 4-byte read gives `v`. After a 1-byte write at any offset, a 1-byte read there gives the byte.
After four 1-byte writes at an aligned offset and the three after it, a 4-byte read gives the four, the first in bits 7:0.
No other byte of the two stores and nothing else of the state changes, but the model's own list of events and response
(log 5, log 6). -/
def Obligations.WordWriteIsLittleEndian : Prop :=
  ∀ (b : Bool) (s : State) (es : List Event), s.busy = false →
    let at18 := fun off : Nat => BitVec.ofNat 18 ((if b then 0x4000 else 0) + off)
    let onlyStores := fun t : State =>
      t = { s with bufA := t.bufA, bufB := t.bufB, events := t.events, response := t.response } ∧
      ∀ a, Memory.read (t.byteStore (!b)) a = Memory.read (s.byteStore (!b)) a
    (∀ (off k : Nat) (v : Word), off % 4 = 0 → off < 16384 → k < 4 →
      s.events = .host (.write4 (at18 off) v) :: .host (.read1 (at18 (off + k))) :: .host (.read4 (at18 off)) :: es →
      ∃ t u w, step s = .next t ∧ step t = .next u ∧ step u = .next w ∧
        t.response = some .ok ∧ u.response = some (.okByte (v.extractLsb' (8 * k) 8)) ∧ w.response = some (.okWord v) ∧
        onlyStores t ∧ onlyStores w ∧ w.events = es ∧
        (∀ j, j < 4 → Memory.read (w.byteStore b) (off + j) = some (v.extractLsb' (8 * j) 8)) ∧
        (∀ a, a < off ∨ off + 4 ≤ a → Memory.read (w.byteStore b) a = Memory.read (s.byteStore b) a)) ∧
    (∀ (off : Nat) (v : Byte), off < 16384 →
      s.events = .host (.write1 (at18 off) v) :: .host (.read1 (at18 off)) :: es →
      ∃ t u, step s = .next t ∧ step t = .next u ∧
        t.response = some .ok ∧ u.response = some (.okByte v) ∧
        onlyStores t ∧ onlyStores u ∧ u.events = es ∧
        (∀ a, Memory.read (u.byteStore b) a = if a = off then some v else Memory.read (s.byteStore b) a)) ∧
    (∀ (off : Nat) (v0 v1 v2 v3 : Byte), off % 4 = 0 → off < 16384 →
      s.events = .host (.write1 (at18 off) v0) :: .host (.write1 (at18 (off + 1)) v1) ::
        .host (.write1 (at18 (off + 2)) v2) :: .host (.write1 (at18 (off + 3)) v3) :: .host (.read4 (at18 off)) :: es →
      ∃ t, Host.Core.run core 5 s = .next t ∧ t.response = some (.okWord (v3 ++ v2 ++ v1 ++ v0)) ∧
        onlyStores t ∧ t.events = es ∧
        (∀ a, a < off ∨ off + 4 ≤ a → Memory.read (t.byteStore b) a = Memory.read (s.byteStore b) a))

/-- A host read of a store cell that nothing has written is refused: a 1-byte read of `BUFA` or `BUFB`, a 4-byte read of
an `FBUF` element, and a 4-byte read of `BUFA` or `BUFB` with one such byte among its four. The refusal is the model's
choice, the one 70_reset_and_hazards.md R214 recommends (log 2, log 17). -/
def Obligations.HostReadOfUnwrittenIsRefused : Prop :=
  ∀ (s : State) (es : List Event) (off : Nat), off < 16384 → s.busy = false →
    (s.events = .host (.read1 (BitVec.ofNat 18 off)) :: es → Memory.read s.bufA off = none →
      step s = .refused (.unwritten .bufA)) ∧
    (s.events = .host (.read1 (BitVec.ofNat 18 (0x4000 + off))) :: es → Memory.read s.bufB off = none →
      step s = .refused (.unwritten .bufB)) ∧
    (s.events = .host (.read4 (BitVec.ofNat 18 (0x10000 + 4 * off))) :: es → Memory.read s.fbuf off = none →
      step s = .refused (.unwritten .fbuf)) ∧
    (∀ k, k < 4 → off % 4 = 0 → s.events = .host (.read4 (BitVec.ofNat 18 off)) :: es →
      Memory.read s.bufA (off + k) = none → step s = .refused (.unwritten .bufA)) ∧
    (∀ k, k < 4 → off % 4 = 0 → s.events = .host (.read4 (BitVec.ofNat 18 (0x4000 + off))) :: es →
      Memory.read s.bufB (off + k) = none → step s = .refused (.unwritten .bufB))

/-! ### Reset and the invariant -/

/-- What reset leaves (10_state.md R44): the control registers, the latches, the counters and `irq` at 0. -/
def Obligations.ResetControlState : Prop :=
  State.reset.ctrlWord = 0 ∧ State.reset.statusWord = 0 ∧ State.reset.cur = 0 ∧ State.reset.degenL = false ∧
  State.reset.walk = 0 ∧ State.reset.offX = 0 ∧ State.reset.offY = 0 ∧ State.reset.offZ = 0 ∧
  State.reset.irq = false

/-- The reset input, from any state and so during a command too (70_reset_and_hazards.md R210, R212): the control state
takes its reset values and no store cell has a value. The operand registers become the model's 0 (log 1, log 10). -/
def Obligations.ResetInputAbandonsTheCommand : Prop :=
  ∀ (s : State) (es : List Event), s.events = .rst :: es →
    ∃ t, step s = .next t ∧ t.ctrlWord = 0 ∧ t.statusWord = 0 ∧ t.cur = 0 ∧ t.degenL = false ∧ t.walk = 0 ∧
      t.offX = 0 ∧ t.offY = 0 ∧ t.offZ = 0 ∧ t.irq = false ∧ t.events = es ∧
      (∀ a, Memory.read t.bufA a = none ∧ Memory.read t.bufB a = none ∧ Memory.read t.fbuf a = none) ∧
      (∀ i : Fin 21, t.readX i = 0)

/-- The invariant holds at reset. -/
def Obligations.InvAtReset : Prop := State.reset.Inv

/-- Every step keeps the invariant: the stores stay canonical, a command in progress is a legal one, `ERRCODE` is as
60_exceptions.md R181 says, `WALK` is 0 but during a swizzle (10_state.md R27) and the running offsets are those of the
sample `WALK` names (R28). -/
def Obligations.StepKeepsInv : Prop :=
  ∀ s t : State, s.Inv → step s = .next t → t.Inv

/-- From a state with the invariant the machine never stops with a fault, whatever the host does: "a command, once
accepted, cannot fail" (60_exceptions.md R180, R182). -/
def Obligations.InvStatesNeverFault : Prop :=
  ∀ s : State, s.Inv → s.NeverFaults
end

