-- ==== Sys2Proof/Laws/Float.lean ====
section
/-! SUPPORT. Binary32 patterns: the fields of a packed pattern, the kinds of operand, and what each operation delivers. -/

namespace Sys2Proof.Machine

/-! ### Fields -/

theorem expField_lt (a : Word) : expField a < 256 := (a.extractLsb' 23 8).isLt

theorem fracField_lt (a : Word) : fracField a < 2 ^ 23 := (a.extractLsb' 0 23).isLt

theorem expField_eq (a : Word) : expField a = a.toNat / 2 ^ 23 % 256 := by
  simp [expField, BitVec.extractLsb'_toNat, Nat.shiftRight_eq_div_pow]

theorem fracField_eq (a : Word) : fracField a = a.toNat % 2 ^ 23 := by
  simp [fracField, BitVec.extractLsb'_toNat]

theorem signBit_eq (a : Word) : signBit a = decide (2 ^ 31 ≤ a.toNat) := by
  have h := a.isLt
  simp only [signBit, BitVec.getLsbD, Nat.testBit_eq_decide_div_mod_eq]
  apply decide_eq_decide.mpr
  omega

theorem packBits_toNat (neg : Bool) (low : Nat) (h : low < 2 ^ 31) :
    (packBits neg low).toNat = (if neg then 2 ^ 31 else 0) + low := by
  have h1 : low % 2 ^ 31 = low := Nat.mod_eq_of_lt h
  simp only [packBits, BitVec.toNat_append, BitVec.toNat_ofBool, BitVec.toNat_ofNat, h1]
  rw [← Nat.shiftLeft_add_eq_or_of_lt h]
  cases neg <;> simp [Nat.shiftLeft_eq]

@[simp] theorem signBit_packBits (neg : Bool) (low : Nat) (h : low < 2 ^ 31) : signBit (packBits neg low) = neg := by
  rw [signBit_eq, packBits_toNat neg low h]
  cases neg
  · simp
    omega
  · simp

@[simp] theorem expField_packBits (neg : Bool) (low : Nat) (h : low < 2 ^ 31) :
    expField (packBits neg low) = low / 2 ^ 23 := by
  rw [expField_eq, packBits_toNat neg low h]
  cases neg <;> simp <;> omega

@[simp] theorem fracField_packBits (neg : Bool) (low : Nat) (h : low < 2 ^ 31) :
    fracField (packBits neg low) = low % 2 ^ 23 := by
  rw [fracField_eq, packBits_toNat neg low h]
  cases neg
  · simp
  · simp; omega

/-! ### Kinds of value -/

/-- Every pattern is finite, an infinity or a NaN. -/
theorem isFinite_eq_not (a : Word) : isFinite a = (!isNaN a && !isInf a) := by
  simp only [isFinite, isNaN, isInf, bne, beq_eq_decide]
  by_cases h : expField a = 255 <;> by_cases h' : fracField a = 0 <;> simp [h, h']

theorem isNaN_of_finite {a : Word} (h : isFinite a = true) : isNaN a = false := by
  rw [isFinite_eq_not] at h; cases hn : isNaN a <;> simp_all

theorem isInf_of_finite {a : Word} (h : isFinite a = true) : isInf a = false := by
  rw [isFinite_eq_not] at h; cases hn : isInf a <;> simp_all

theorem isNaN_of_inf {a : Word} (h : isInf a = true) : isNaN a = false := by
  simp only [isInf, isNaN, Bool.and_eq_true, beq_iff_eq] at *
  simp [h.1, h.2]

/-- A pattern with bits 30:0 at most the infinity's is no NaN. -/
theorem isNaN_packBits (neg : Bool) (low : Nat) (h : low ≤ infBits) : isNaN (packBits neg low) = false := by
  have h' : low < 2 ^ 31 := by unfold infBits at h; omega
  rw [isNaN, expField_packBits neg low h', fracField_packBits neg low h']
  unfold infBits at h
  simp only [Bool.and_eq_false_iff, beq_eq_false_iff_ne, bne_eq_false_iff_eq]
  omega

/-- The rounding never leaves the magnitudes from zero to the infinity. -/
theorem roundUnits_le (n d : Nat) : roundUnits n d ≤ infBits := Nat.min_le_right _ _

@[simp] theorem isNaN_zeroOf (neg : Bool) : isNaN (zeroOf neg) = false := isNaN_packBits neg 0 (Nat.zero_le _)

@[simp] theorem isNaN_infOf (neg : Bool) : isNaN (infOf neg) = false := isNaN_packBits neg infBits (le_refl _)

@[simp] theorem isInf_infOf (neg : Bool) : isInf (infOf neg) = true := by cases neg <;> decide

@[simp] theorem signBit_infOf (neg : Bool) : signBit (infOf neg) = neg := by cases neg <;> decide

@[simp] theorem isZero_zeroOf (neg : Bool) : isZero (zeroOf neg) = true := by cases neg <;> decide

@[simp] theorem signBit_zeroOf (neg : Bool) : signBit (zeroOf neg) = neg := by cases neg <;> decide

/-- A zero is one of two patterns. -/
theorem isZero_iff (a : Word) : isZero a = true ↔ a = 0x00000000#32 ∨ a = 0x80000000#32 := by
  have h := a.isLt
  simp only [isZero, Bool.and_eq_true, beq_iff_eq, expField_eq, fracField_eq, ← BitVec.toNat_inj, BitVec.toNat_ofNat]
  omega

theorem isFinite_of_zero {a : Word} (h : isZero a = true) : isFinite a = true := by
  rcases (isZero_iff a).1 h with rfl | rfl <;> decide

/-! ### Negation -/

@[simp] theorem signBit_negate (a : Word) : signBit (negate a) = !signBit a :=
  signBit_packBits _ _ (Nat.mod_lt _ (by decide))

@[simp] theorem expField_negate (a : Word) : expField (negate a) = expField a := by
  rw [negate, expField_packBits _ _ (Nat.mod_lt _ (by decide)), expField_eq]
  omega

@[simp] theorem fracField_negate (a : Word) : fracField (negate a) = fracField a := by
  rw [negate, fracField_packBits _ _ (Nat.mod_lt _ (by decide)), fracField_eq]
  omega

@[simp] theorem isNaN_negate (a : Word) : isNaN (negate a) = isNaN a := by simp [isNaN]

@[simp] theorem isInf_negate (a : Word) : isInf (negate a) = isInf a := by simp [isInf]

@[simp] theorem isFinite_negate (a : Word) : isFinite (negate a) = isFinite a := by simp [isFinite]

@[simp] theorem isZero_negate (a : Word) : isZero (negate a) = isZero a := by simp [isZero]

@[simp] theorem magnitude_negate (a : Word) : magnitude (negate a) = magnitude a := by simp [magnitude]

@[simp] theorem unitsInt_negate (a : Word) : unitsInt (negate a) = -unitsInt a := by
  unfold unitsInt
  cases h : signBit a <;> simp [h]

/-! ### NaNs -/

theorem quietNaN_toNat (q : BitVec 23) :
    (quietNaN q).toNat = (if 2 ^ 22 ≤ q.toNat then 2 ^ 31 else 0) + 511 * 2 ^ 22 + q.toNat % 2 ^ 22 := by
  have h := q.isLt
  have hlow : q.toNat % 2 ^ 22 < 2 ^ 22 := Nat.mod_lt _ (by decide)
  simp only [quietNaN, BitVec.toNat_append, BitVec.extractLsb'_toNat, Nat.shiftRight_eq_div_pow, BitVec.toNat_ofNat]
  rw [← Nat.shiftLeft_add_eq_or_of_lt (by omega), ← Nat.shiftLeft_add_eq_or_of_lt (by omega),
    ← Nat.shiftLeft_add_eq_or_of_lt (by omega)]
  simp only [Nat.shiftLeft_eq]
  split <;> omega

/-- Whatever the free bits, the pattern is a quiet NaN. -/
@[simp] theorem isQuietNaN_quietNaN (q : BitVec 23) : isQuietNaN (quietNaN q) = true := by
  have h := quietNaN_toNat q
  have hlow : q.toNat % 2 ^ 22 < 2 ^ 22 := Nat.mod_lt _ (by decide)
  have h22 : (quietNaN q).getLsbD 22 = true := by
    simp only [BitVec.getLsbD, Nat.testBit_eq_decide_div_mod_eq, decide_eq_true_eq]
    split at h <;> omega
  simp only [isQuietNaN, isNaN, h22, Bool.and_true, Bool.and_eq_true, beq_iff_eq, bne_iff_ne, expField_eq, fracField_eq]
  split at h <;> omega

theorem isNaN_of_quiet {a : Word} (h : isQuietNaN a = true) : isNaN a = true := by
  simp only [isQuietNaN, Bool.and_eq_true] at h; exact h.1

@[simp] theorem deliver_some (nan : NaNSource) (k : Nat) (a b v : Word) : deliver nan k a b (some v) = v := rfl

@[simp] theorem isQuietNaN_deliver_none (nan : NaNSource) (k : Nat) (a b : Word) :
    isQuietNaN (deliver nan k a b none) = true := isQuietNaN_quietNaN _

theorem addValue_of_nan {a b : Word} (h : isNaN a = true ∨ isNaN b = true) : addValue a b = none := by
  unfold addValue; rcases h with h | h <;> simp [h]

theorem subValue_of_nan {a b : Word} (h : isNaN a = true ∨ isNaN b = true) : subValue a b = none :=
  addValue_of_nan (by simpa using h)

theorem mulValue_of_nan {a b : Word} (h : isNaN a = true ∨ isNaN b = true) : mulValue a b = none := by
  unfold mulValue; rcases h with h | h <;> simp [h]

theorem divValue_of_nan {a b : Word} (h : isNaN a = true ∨ isNaN b = true) : divValue a b = none := by
  unfold divValue; rcases h with h | h <;> simp [h]

/-- A sum that is a value is no NaN. -/
theorem addValue_not_nan {a b v : Word} (h : addValue a b = some v) : isNaN v = false := by
  unfold addValue at h
  split at h
  · cases h
  · rename_i hn
    simp only [Bool.or_eq_true, not_or, Bool.not_eq_true] at hn
    split at h
    · split at h
      · cases h
      · cases h; exact hn.1
    · split at h
      · cases h; exact hn.2
      · cases h
        unfold addFinite
        simp only []
        split
        · simp
        · exact isNaN_packBits _ _ (roundUnits_le _ _)

theorem subValue_not_nan {a b v : Word} (h : subValue a b = some v) : isNaN v = false := addValue_not_nan h

/-- A product that is a value is no NaN. -/
theorem mulValue_not_nan {a b v : Word} (h : mulValue a b = some v) : isNaN v = false := by
  unfold mulValue at h
  simp only [] at h
  split at h
  · cases h
  · split at h
    · split at h
      · cases h
      · cases h; simp
    · cases h; exact isNaN_packBits _ _ (roundUnits_le _ _)

/-- A quotient that is a value is no NaN. -/
theorem divValue_not_nan {a b v : Word} (h : divValue a b = some v) : isNaN v = false := by
  unfold divValue at h
  simp only [] at h
  split at h
  · cases h
  split at h
  · split at h
    · cases h
    · cases h; exact isNaN_infOf _
  split at h
  · cases h; exact isNaN_zeroOf _
  split at h
  · split at h
    · cases h
    · cases h; exact isNaN_infOf _
  · cases h; exact isNaN_packBits _ _ (roundUnits_le _ _)

/-! ### `lin` -/

/-- The bypass: `f0`, bit for bit (40_interpolate.md R125). -/
theorem lin_of_bypass (nan : NaNSource) (k : Nat) (x x0 x1 f0 f1 : Word) (h : fEq x0 x1 = true) :
    lin nan k true x x0 x1 f0 f1 = f0 := by simp [lin, h]

/-- No bypass: the six operations (40_interpolate.md R125). -/
theorem lin_of_no_bypass (nan : NaNSource) (k : Nat) (dg : Bool) (x x0 x1 f0 f1 : Word)
    (h : (dg && fEq x0 x1) = false) :
    lin nan k dg x x0 x1 f0 f1 =
      fAdd nan (k + 5) f0 (fMul nan (k + 4) (fDiv nan (k + 2) (fSub nan k x x0) (fSub nan (k + 1) x1 x0))
        (fSub nan (k + 3) f1 f0)) := by simp [lin, h]

end Sys2Proof.Machine
end

