-- ==== Sys2Proof/Laws/Memory.lean ====
section
/-! SUPPORT. Stores: what a read gives after each operation, and that every operation keeps the canonical form. -/

namespace Sys2Proof.Machine

variable {w : Nat}

/-! ### Reads -/

@[simp] theorem Memory.read_nil (a : Nat) : Memory.read ([] : Memory w) a = none := rfl

/-- A read after a write gives the value written there and the old value elsewhere. -/
theorem Memory.read_write (m : Memory w) (a b : Nat) (v : BitVec w) :
    Memory.read (Memory.write m a v) b = if b = a then some v else Memory.read m b := by
  induction m with
  | nil => simp [Memory.write, Memory.read]
  | cons p rest ih =>
    obtain ⟨c, u⟩ := p
    unfold Memory.write
    by_cases h1 : a < c
    · simp [h1, Memory.read]
    · by_cases h2 : a = c
      · subst h2
        by_cases hb : b = a <;> simp [Memory.read, hb]
      · simp only [h1, h2, if_false, Memory.read, ih]
        by_cases hb : b = c
        · simp [hb]
          intro h; omega
        · simp [hb]

/-- A read after an erase gives no value there and the old value elsewhere. -/
theorem Memory.read_erase (m : Memory w) (a b : Nat) :
    Memory.read (Memory.erase m a) b = if b = a then none else Memory.read m b := by
  induction m with
  | nil => simp [Memory.erase]
  | cons p rest ih =>
    obtain ⟨c, u⟩ := p
    unfold Memory.erase
    by_cases h : a = c
    · subst h
      rw [if_pos rfl, ih]
      by_cases hb : b = a <;> simp [Memory.read, hb]
    · by_cases hb : b = c
      · simp [Memory.read, h, hb]
        intro h'; omega
      · simp [Memory.read, h, hb, ih]

/-- A read after a copy gives what was copied there, a value or none, and the old value elsewhere. -/
theorem Memory.read_put (m : Memory w) (a b : Nat) (v : Option (BitVec w)) :
    Memory.read (Memory.put m a v) b = if b = a then v else Memory.read m b := by
  cases v with
  | none => exact Memory.read_erase m a b
  | some u => exact Memory.read_write m a b u

/-- Everything a sample copy does: four cells get the source's, every other cell is as before. -/
theorem read_copySample (src dst : Memory 8) (f t a : Nat) :
    Memory.read (copySample src dst f t) a =
      if t ≤ a ∧ a < t + 4 then Memory.read src (f + (a - t)) else Memory.read dst a := by
  simp only [copySample, Memory.read_put]
  by_cases h3 : a = t + 3
  · subst h3; simp
  by_cases h2 : a = t + 2
  · subst h2; simp
  by_cases h1 : a = t + 1
  · subst h1; simp
  by_cases h0 : a = t
  · subst h0; simp
  have : ¬(t ≤ a ∧ a < t + 4) := by omega
  simp [h0, h1, h2, h3, this]

/-- Everything a 4-byte host write does to a byte store. -/
theorem read_writeSampleWord (m : Memory 8) (t a : Nat) (v : Word) :
    Memory.read (writeSampleWord m t v) a =
      if t ≤ a ∧ a < t + 4 then some (v.extractLsb' (8 * (a - t)) 8) else Memory.read m a := by
  simp only [writeSampleWord, Memory.read_write]
  by_cases h3 : a = t + 3
  · subst h3; simp
  by_cases h2 : a = t + 2
  · subst h2; simp
  by_cases h1 : a = t + 1
  · subst h1; simp
  by_cases h0 : a = t
  · subst h0; simp
  have : ¬(t ≤ a ∧ a < t + 4) := by omega
  simp [h0, h1, h2, h3, this]

/-- A word is read exactly where its four bytes are, the one at the lowest offset in bits 7:0 (20_memory.md R65). -/
theorem readSampleWord_some {m : Memory 8} {a : Nat} {v : Word} :
    readSampleWord m a = some v ↔
      ∃ b0 b1 b2 b3, Memory.read m a = some b0 ∧ Memory.read m (a + 1) = some b1 ∧ Memory.read m (a + 2) = some b2 ∧
        Memory.read m (a + 3) = some b3 ∧ v = b3 ++ b2 ++ b1 ++ b0 := by
  constructor
  · intro h
    unfold readSampleWord at h
    split at h
    · rename_i b0 b1 b2 b3 h0 h1 h2 h3
      cases h
      exact ⟨b0, b1, b2, b3, h0, h1, h2, h3, rfl⟩
    · cases h
  · rintro ⟨b0, b1, b2, b3, h0, h1, h2, h3, rfl⟩
    simp only [readSampleWord, h0, h1, h2, h3]

/-- A word is its four bytes. -/
theorem word_of_bytes (v : BitVec 32) :
    v.extractLsb' 24 8 ++ v.extractLsb' 16 8 ++ v.extractLsb' 8 8 ++ v.extractLsb' 0 8 = v := by
  apply BitVec.eq_of_getLsbD_eq
  intro i hi
  simp only [BitVec.getLsbD_append, BitVec.getLsbD_extractLsb']
  by_cases h1 : i < 8
  · simp [h1]
  by_cases h2 : i < 16
  · have : i - 8 < 8 := by omega
    simp [h1, this, show 8 + (i - 8) = i by omega]
  by_cases h3 : i < 24
  · simp [h1, show ¬(i - 8 < 8) by omega, show i - 8 - 8 < 8 by omega, show 16 + (i - 8 - 8) = i by omega]
  · simp [h1, show ¬(i - 8 < 8) by omega, show ¬(i - 8 - 8 < 8) by omega, show i - 8 - 8 - 8 < 8 by omega,
      show 24 + (i - 8 - 8 - 8) = i by omega]

/-- A word that was written is the word that is read (20_memory.md R65). -/
theorem readSampleWord_writeSampleWord (m : Memory 8) (a : Nat) (v : Word) :
    readSampleWord (writeSampleWord m a v) a = some v :=
  readSampleWord_some.mpr ⟨v.extractLsb' 0 8, v.extractLsb' 8 8, v.extractLsb' 16 8, v.extractLsb' 24 8,
    by simp [read_writeSampleWord], by simp [read_writeSampleWord], by simp [read_writeSampleWord],
    by simp [read_writeSampleWord], (word_of_bytes v).symm⟩

/-! ### The canonical form -/

/-- The canonical form, with a lower bound on the first address: what an induction needs. -/
def Memory.wfFrom (lo : Nat) : Memory w → Bool
  | [] => true
  | (a, _) :: rest => decide (lo ≤ a) && decide (a < Config.nelem) && Memory.wfFrom (a + 1) rest

theorem Memory.wfFrom_mono {lo lo' : Nat} (h : lo' ≤ lo) (m : Memory w) (hm : Memory.wfFrom lo m = true) :
    Memory.wfFrom lo' m = true := by
  cases m with
  | nil => rfl
  | cons p rest =>
    obtain ⟨a, v⟩ := p
    simp only [Memory.wfFrom, Bool.and_eq_true, decide_eq_true_eq] at hm ⊢
    exact ⟨⟨by omega, hm.1.2⟩, hm.2⟩

/-- The two ways to say the canonical form agree. -/
theorem Memory.wf_eq_wfFrom (m : Memory w) : Memory.wf m = Memory.wfFrom 0 m := by
  have key : ∀ (rest : Memory w) (a : Nat) (v : BitVec w) (lo : Nat), lo ≤ a →
      Memory.wf ((a, v) :: rest) = Memory.wfFrom lo ((a, v) :: rest) := by
    intro rest
    induction rest with
    | nil => intro a v lo h; simp [Memory.wf, Memory.wfFrom, h]
    | cons p rest ih =>
      obtain ⟨b, u⟩ := p
      intro a v lo h
      rw [Memory.wf, ih b u b (le_refl b)]
      simp only [Memory.wfFrom, h, decide_true, Bool.true_and, le_refl]
      by_cases h1 : a < b
      · have : a + 1 ≤ b := h1
        by_cases h2 : b < Config.nelem
        · have : a < Config.nelem := by omega
          simp [*]
        · simp [h2]
      · have : ¬ (a + 1 ≤ b) := h1
        simp [*]
  cases m with
  | nil => rfl
  | cons p rest => exact key rest p.1 p.2 0 (Nat.zero_le _)

theorem Memory.wfFrom_write (m : Memory w) (lo a : Nat) (v : BitVec w) (h : Memory.wfFrom lo m = true)
    (hlo : lo ≤ a) (ha : a < Config.nelem) : Memory.wfFrom lo (Memory.write m a v) = true := by
  induction m generalizing lo with
  | nil => simp [Memory.write, Memory.wfFrom, hlo, ha]
  | cons p rest ih =>
    obtain ⟨b, u⟩ := p
    simp only [Memory.wfFrom, Bool.and_eq_true, decide_eq_true_eq] at h
    unfold Memory.write
    by_cases h1 : a < b
    · have : a + 1 ≤ b := h1
      simp [h1, Memory.wfFrom, hlo, ha, h.1.2, h.2, this]
    · by_cases h2 : a = b
      · subst h2; simp [Memory.wfFrom, hlo, ha, h.2]
      · simp only [h1, h2, if_false, Memory.wfFrom, Bool.and_eq_true, decide_eq_true_eq]
        exact ⟨h.1, ih (b + 1) h.2 (by omega)⟩

theorem Memory.wfFrom_erase (m : Memory w) (lo a : Nat) (h : Memory.wfFrom lo m = true) :
    Memory.wfFrom lo (Memory.erase m a) = true := by
  induction m generalizing lo with
  | nil => rfl
  | cons p rest ih =>
    obtain ⟨b, u⟩ := p
    simp only [Memory.wfFrom, Bool.and_eq_true, decide_eq_true_eq] at h
    unfold Memory.erase
    by_cases h1 : a = b
    · rw [if_pos h1]
      exact ih lo (Memory.wfFrom_mono (by omega) rest h.2)
    · simp only [h1, if_false, Memory.wfFrom, Bool.and_eq_true, decide_eq_true_eq]
      exact ⟨h.1, ih (b + 1) h.2⟩

/-- A write in range keeps the canonical form. -/
theorem Memory.wf_write (m : Memory w) (a : Nat) (v : BitVec w) (h : Memory.wf m = true) (ha : a < Config.nelem) :
    Memory.wf (Memory.write m a v) = true := by
  rw [Memory.wf_eq_wfFrom] at h ⊢
  exact Memory.wfFrom_write m 0 a v h (Nat.zero_le _) ha

/-- An erase keeps the canonical form. -/
theorem Memory.wf_erase (m : Memory w) (a : Nat) (h : Memory.wf m = true) : Memory.wf (Memory.erase m a) = true := by
  rw [Memory.wf_eq_wfFrom] at h ⊢
  exact Memory.wfFrom_erase m 0 a h

/-- A copy in range keeps the canonical form. -/
theorem Memory.wf_put (m : Memory w) (a : Nat) (v : Option (BitVec w)) (h : Memory.wf m = true)
    (ha : a < Config.nelem) : Memory.wf (Memory.put m a v) = true := by
  cases v with
  | none => exact Memory.wf_erase m a h
  | some u => exact Memory.wf_write m a u h ha

/-- A sample copy in range keeps the destination's canonical form. -/
theorem wf_copySample (src dst : Memory 8) (f t : Nat) (h : Memory.wf dst = true) (ht : t + 3 < Config.nelem) :
    Memory.wf (copySample src dst f t) = true := by
  unfold copySample
  exact Memory.wf_put _ _ _ (Memory.wf_put _ _ _ (Memory.wf_put _ _ _ (Memory.wf_put _ _ _ h (by omega)) (by omega))
    (by omega)) ht

/-- A 4-byte host write in range keeps the canonical form. -/
theorem wf_writeSampleWord (m : Memory 8) (t : Nat) (v : Word) (h : Memory.wf m = true) (ht : t + 3 < Config.nelem) :
    Memory.wf (writeSampleWord m t v) = true := by
  unfold writeSampleWord
  exact Memory.wf_write _ _ _ (Memory.wf_write _ _ _ (Memory.wf_write _ _ _ (Memory.wf_write _ _ _ h (by omega))
    (by omega)) (by omega)) ht

/-- The stores of the reset state are in canonical form. -/
theorem reset_stores_wf :
    Memory.wf State.reset.bufA = true ∧ Memory.wf State.reset.bufB = true ∧ Memory.wf State.reset.fbuf = true :=
  ⟨rfl, rfl, rfl⟩

end Sys2Proof.Machine
end

