-- ==== Sys2Proof/Laws/PerInstr.lean ====
section
/-! SUPPORT. Statements made instruction by instruction. -/

namespace Sys2Proof.Laws.FieldsOfEncode

/-- The fields read back from an instruction's word are the instruction's own, and they are legal
(30_encoding.md R91 to R93). -/
def Statement (i : Instr) : Prop := Fields.ofWord (encode i) = i.fields ∧ i.wellFormed = true

theorem lin : Statement .lin := by unfold Statement; decide
theorem bilin : Statement .bilin := by unfold Statement; decide
theorem trilin : Statement .trilin := by unfold Statement; decide
theorem sampleA : Statement .sampleA := by unfold Statement; decide
theorem sampleB : Statement .sampleB := by unfold Statement; decide
theorem sampleF : Statement .sampleF := by unfold Statement; decide
theorem swzAB : Statement .swzAB := by unfold Statement; decide
theorem swzBA : Statement .swzBA := by unfold Statement; decide
theorem dswzAB : Statement .dswzAB := by unfold Statement; decide
theorem dswzBA : Statement .dswzBA := by unfold Statement; decide

end Sys2Proof.Laws.FieldsOfEncode
end

