-- ==== Sys2Proof/Laws/State.lean ====
section
/-! SUPPORT. What each update of State leaves in each field: one lemma per field per update, so that no proof unfolds a record update. -/

namespace Sys2Proof.Machine

variable (s : State)

/-! ### writeX -/

@[simp] theorem State.writeX_x (i : Fin 21) (v : Word) : (s.writeX i v).x = s.x.set i v := rfl
@[simp] theorem State.writeX_degen (i : Fin 21) (v : Word) : (s.writeX i v).degen = s.degen := rfl
@[simp] theorem State.writeX_ieDone (i : Fin 21) (v : Word) : (s.writeX i v).ieDone = s.ieDone := rfl
@[simp] theorem State.writeX_ieErr (i : Fin 21) (v : Word) : (s.writeX i v).ieErr = s.ieErr := rfl
@[simp] theorem State.writeX_busy (i : Fin 21) (v : Word) : (s.writeX i v).busy = s.busy := rfl
@[simp] theorem State.writeX_done (i : Fin 21) (v : Word) : (s.writeX i v).done = s.done := rfl
@[simp] theorem State.writeX_err (i : Fin 21) (v : Word) : (s.writeX i v).err = s.err := rfl
@[simp] theorem State.writeX_errCode (i : Fin 21) (v : Word) : (s.writeX i v).errCode = s.errCode := rfl
@[simp] theorem State.writeX_cur (i : Fin 21) (v : Word) : (s.writeX i v).cur = s.cur := rfl
@[simp] theorem State.writeX_degenL (i : Fin 21) (v : Word) : (s.writeX i v).degenL = s.degenL := rfl
@[simp] theorem State.writeX_walk (i : Fin 21) (v : Word) : (s.writeX i v).walk = s.walk := rfl
@[simp] theorem State.writeX_offX (i : Fin 21) (v : Word) : (s.writeX i v).offX = s.offX := rfl
@[simp] theorem State.writeX_offY (i : Fin 21) (v : Word) : (s.writeX i v).offY = s.offY := rfl
@[simp] theorem State.writeX_offZ (i : Fin 21) (v : Word) : (s.writeX i v).offZ = s.offZ := rfl
@[simp] theorem State.writeX_bufA (i : Fin 21) (v : Word) : (s.writeX i v).bufA = s.bufA := rfl
@[simp] theorem State.writeX_bufB (i : Fin 21) (v : Word) : (s.writeX i v).bufB = s.bufB := rfl
@[simp] theorem State.writeX_fbuf (i : Fin 21) (v : Word) : (s.writeX i v).fbuf = s.fbuf := rfl
@[simp] theorem State.writeX_nanSeed (i : Fin 21) (v : Word) : (s.writeX i v).nanSeed = s.nanSeed := rfl
@[simp] theorem State.writeX_events (i : Fin 21) (v : Word) : (s.writeX i v).events = s.events := rfl
@[simp] theorem State.writeX_response (i : Fin 21) (v : Word) : (s.writeX i v).response = s.response := rfl
@[simp] theorem State.writeX_byteStore (i : Fin 21) (v : Word) (c : Bool) : (s.writeX i v).byteStore c = s.byteStore c := rfl

/-! ### setFbuf -/

@[simp] theorem State.setFbuf_x (m : Memory 32) : (s.setFbuf m).x = s.x := rfl
@[simp] theorem State.setFbuf_degen (m : Memory 32) : (s.setFbuf m).degen = s.degen := rfl
@[simp] theorem State.setFbuf_ieDone (m : Memory 32) : (s.setFbuf m).ieDone = s.ieDone := rfl
@[simp] theorem State.setFbuf_ieErr (m : Memory 32) : (s.setFbuf m).ieErr = s.ieErr := rfl
@[simp] theorem State.setFbuf_busy (m : Memory 32) : (s.setFbuf m).busy = s.busy := rfl
@[simp] theorem State.setFbuf_done (m : Memory 32) : (s.setFbuf m).done = s.done := rfl
@[simp] theorem State.setFbuf_err (m : Memory 32) : (s.setFbuf m).err = s.err := rfl
@[simp] theorem State.setFbuf_errCode (m : Memory 32) : (s.setFbuf m).errCode = s.errCode := rfl
@[simp] theorem State.setFbuf_cur (m : Memory 32) : (s.setFbuf m).cur = s.cur := rfl
@[simp] theorem State.setFbuf_degenL (m : Memory 32) : (s.setFbuf m).degenL = s.degenL := rfl
@[simp] theorem State.setFbuf_walk (m : Memory 32) : (s.setFbuf m).walk = s.walk := rfl
@[simp] theorem State.setFbuf_offX (m : Memory 32) : (s.setFbuf m).offX = s.offX := rfl
@[simp] theorem State.setFbuf_offY (m : Memory 32) : (s.setFbuf m).offY = s.offY := rfl
@[simp] theorem State.setFbuf_offZ (m : Memory 32) : (s.setFbuf m).offZ = s.offZ := rfl
@[simp] theorem State.setFbuf_bufA (m : Memory 32) : (s.setFbuf m).bufA = s.bufA := rfl
@[simp] theorem State.setFbuf_bufB (m : Memory 32) : (s.setFbuf m).bufB = s.bufB := rfl
@[simp] theorem State.setFbuf_fbuf (m : Memory 32) : (s.setFbuf m).fbuf = m := rfl
@[simp] theorem State.setFbuf_nanSeed (m : Memory 32) : (s.setFbuf m).nanSeed = s.nanSeed := rfl
@[simp] theorem State.setFbuf_events (m : Memory 32) : (s.setFbuf m).events = s.events := rfl
@[simp] theorem State.setFbuf_response (m : Memory 32) : (s.setFbuf m).response = s.response := rfl
@[simp] theorem State.setFbuf_readX (m : Memory 32) (j : Fin 21) : (s.setFbuf m).readX j = s.readX j := rfl
@[simp] theorem State.setFbuf_byteStore (m : Memory 32) (c : Bool) : (s.setFbuf m).byteStore c = s.byteStore c := rfl

/-! ### raiseCmdError -/

@[simp] theorem State.raiseCmdError_x (e : CmdError) : (s.raiseCmdError e).x = s.x := rfl
@[simp] theorem State.raiseCmdError_degen (e : CmdError) : (s.raiseCmdError e).degen = s.degen := rfl
@[simp] theorem State.raiseCmdError_ieDone (e : CmdError) : (s.raiseCmdError e).ieDone = s.ieDone := rfl
@[simp] theorem State.raiseCmdError_ieErr (e : CmdError) : (s.raiseCmdError e).ieErr = s.ieErr := rfl
@[simp] theorem State.raiseCmdError_busy (e : CmdError) : (s.raiseCmdError e).busy = s.busy := rfl
@[simp] theorem State.raiseCmdError_done (e : CmdError) : (s.raiseCmdError e).done = s.done := rfl
@[simp] theorem State.raiseCmdError_err (e : CmdError) : (s.raiseCmdError e).err = true := rfl
@[simp] theorem State.raiseCmdError_errCode (e : CmdError) : (s.raiseCmdError e).errCode = if s.err then s.errCode else e.code := rfl
@[simp] theorem State.raiseCmdError_cur (e : CmdError) : (s.raiseCmdError e).cur = s.cur := rfl
@[simp] theorem State.raiseCmdError_degenL (e : CmdError) : (s.raiseCmdError e).degenL = s.degenL := rfl
@[simp] theorem State.raiseCmdError_walk (e : CmdError) : (s.raiseCmdError e).walk = s.walk := rfl
@[simp] theorem State.raiseCmdError_offX (e : CmdError) : (s.raiseCmdError e).offX = s.offX := rfl
@[simp] theorem State.raiseCmdError_offY (e : CmdError) : (s.raiseCmdError e).offY = s.offY := rfl
@[simp] theorem State.raiseCmdError_offZ (e : CmdError) : (s.raiseCmdError e).offZ = s.offZ := rfl
@[simp] theorem State.raiseCmdError_bufA (e : CmdError) : (s.raiseCmdError e).bufA = s.bufA := rfl
@[simp] theorem State.raiseCmdError_bufB (e : CmdError) : (s.raiseCmdError e).bufB = s.bufB := rfl
@[simp] theorem State.raiseCmdError_fbuf (e : CmdError) : (s.raiseCmdError e).fbuf = s.fbuf := rfl
@[simp] theorem State.raiseCmdError_nanSeed (e : CmdError) : (s.raiseCmdError e).nanSeed = s.nanSeed := rfl
@[simp] theorem State.raiseCmdError_events (e : CmdError) : (s.raiseCmdError e).events = s.events := rfl
@[simp] theorem State.raiseCmdError_response (e : CmdError) : (s.raiseCmdError e).response = s.response := rfl
@[simp] theorem State.raiseCmdError_readX (e : CmdError) (j : Fin 21) : (s.raiseCmdError e).readX j = s.readX j := rfl
@[simp] theorem State.raiseCmdError_byteStore (e : CmdError) (c : Bool) : (s.raiseCmdError e).byteStore c = s.byteStore c := rfl

/-! ### clearErr -/

@[simp] theorem State.clearErr_x : (s.clearErr).x = s.x := rfl
@[simp] theorem State.clearErr_degen : (s.clearErr).degen = s.degen := rfl
@[simp] theorem State.clearErr_ieDone : (s.clearErr).ieDone = s.ieDone := rfl
@[simp] theorem State.clearErr_ieErr : (s.clearErr).ieErr = s.ieErr := rfl
@[simp] theorem State.clearErr_busy : (s.clearErr).busy = s.busy := rfl
@[simp] theorem State.clearErr_done : (s.clearErr).done = s.done := rfl
@[simp] theorem State.clearErr_err : (s.clearErr).err = false := rfl
@[simp] theorem State.clearErr_errCode : (s.clearErr).errCode = 0 := rfl
@[simp] theorem State.clearErr_cur : (s.clearErr).cur = s.cur := rfl
@[simp] theorem State.clearErr_degenL : (s.clearErr).degenL = s.degenL := rfl
@[simp] theorem State.clearErr_walk : (s.clearErr).walk = s.walk := rfl
@[simp] theorem State.clearErr_offX : (s.clearErr).offX = s.offX := rfl
@[simp] theorem State.clearErr_offY : (s.clearErr).offY = s.offY := rfl
@[simp] theorem State.clearErr_offZ : (s.clearErr).offZ = s.offZ := rfl
@[simp] theorem State.clearErr_bufA : (s.clearErr).bufA = s.bufA := rfl
@[simp] theorem State.clearErr_bufB : (s.clearErr).bufB = s.bufB := rfl
@[simp] theorem State.clearErr_fbuf : (s.clearErr).fbuf = s.fbuf := rfl
@[simp] theorem State.clearErr_nanSeed : (s.clearErr).nanSeed = s.nanSeed := rfl
@[simp] theorem State.clearErr_events : (s.clearErr).events = s.events := rfl
@[simp] theorem State.clearErr_response : (s.clearErr).response = s.response := rfl
@[simp] theorem State.clearErr_readX (j : Fin 21) : (s.clearErr).readX j = s.readX j := rfl
@[simp] theorem State.clearErr_byteStore (c : Bool) : (s.clearErr).byteStore c = s.byteStore c := rfl

/-! ### clearDone -/

@[simp] theorem State.clearDone_x : (s.clearDone).x = s.x := rfl
@[simp] theorem State.clearDone_degen : (s.clearDone).degen = s.degen := rfl
@[simp] theorem State.clearDone_ieDone : (s.clearDone).ieDone = s.ieDone := rfl
@[simp] theorem State.clearDone_ieErr : (s.clearDone).ieErr = s.ieErr := rfl
@[simp] theorem State.clearDone_busy : (s.clearDone).busy = s.busy := rfl
@[simp] theorem State.clearDone_done : (s.clearDone).done = false := rfl
@[simp] theorem State.clearDone_err : (s.clearDone).err = s.err := rfl
@[simp] theorem State.clearDone_errCode : (s.clearDone).errCode = s.errCode := rfl
@[simp] theorem State.clearDone_cur : (s.clearDone).cur = s.cur := rfl
@[simp] theorem State.clearDone_degenL : (s.clearDone).degenL = s.degenL := rfl
@[simp] theorem State.clearDone_walk : (s.clearDone).walk = s.walk := rfl
@[simp] theorem State.clearDone_offX : (s.clearDone).offX = s.offX := rfl
@[simp] theorem State.clearDone_offY : (s.clearDone).offY = s.offY := rfl
@[simp] theorem State.clearDone_offZ : (s.clearDone).offZ = s.offZ := rfl
@[simp] theorem State.clearDone_bufA : (s.clearDone).bufA = s.bufA := rfl
@[simp] theorem State.clearDone_bufB : (s.clearDone).bufB = s.bufB := rfl
@[simp] theorem State.clearDone_fbuf : (s.clearDone).fbuf = s.fbuf := rfl
@[simp] theorem State.clearDone_nanSeed : (s.clearDone).nanSeed = s.nanSeed := rfl
@[simp] theorem State.clearDone_events : (s.clearDone).events = s.events := rfl
@[simp] theorem State.clearDone_response : (s.clearDone).response = s.response := rfl
@[simp] theorem State.clearDone_readX (j : Fin 21) : (s.clearDone).readX j = s.readX j := rfl
@[simp] theorem State.clearDone_byteStore (c : Bool) : (s.clearDone).byteStore c = s.byteStore c := rfl

/-! ### accept -/

@[simp] theorem State.accept_x (w : Word) : (s.accept w).x = s.x := rfl
@[simp] theorem State.accept_degen (w : Word) : (s.accept w).degen = s.degen := rfl
@[simp] theorem State.accept_ieDone (w : Word) : (s.accept w).ieDone = s.ieDone := rfl
@[simp] theorem State.accept_ieErr (w : Word) : (s.accept w).ieErr = s.ieErr := rfl
@[simp] theorem State.accept_busy (w : Word) : (s.accept w).busy = true := rfl
@[simp] theorem State.accept_done (w : Word) : (s.accept w).done = false := rfl
@[simp] theorem State.accept_err (w : Word) : (s.accept w).err = s.err := rfl
@[simp] theorem State.accept_errCode (w : Word) : (s.accept w).errCode = s.errCode := rfl
@[simp] theorem State.accept_cur (w : Word) : (s.accept w).cur = w := rfl
@[simp] theorem State.accept_degenL (w : Word) : (s.accept w).degenL = s.degen := rfl
@[simp] theorem State.accept_walk (w : Word) : (s.accept w).walk = 0 := rfl
@[simp] theorem State.accept_offX (w : Word) : (s.accept w).offX = 0 := rfl
@[simp] theorem State.accept_offY (w : Word) : (s.accept w).offY = 0 := rfl
@[simp] theorem State.accept_offZ (w : Word) : (s.accept w).offZ = 0 := rfl
@[simp] theorem State.accept_bufA (w : Word) : (s.accept w).bufA = s.bufA := rfl
@[simp] theorem State.accept_bufB (w : Word) : (s.accept w).bufB = s.bufB := rfl
@[simp] theorem State.accept_fbuf (w : Word) : (s.accept w).fbuf = s.fbuf := rfl
@[simp] theorem State.accept_nanSeed (w : Word) : (s.accept w).nanSeed = s.nanSeed := rfl
@[simp] theorem State.accept_events (w : Word) : (s.accept w).events = s.events := rfl
@[simp] theorem State.accept_response (w : Word) : (s.accept w).response = s.response := rfl
@[simp] theorem State.accept_readX (w : Word) (j : Fin 21) : (s.accept w).readX j = s.readX j := rfl
@[simp] theorem State.accept_byteStore (w : Word) (c : Bool) : (s.accept w).byteStore c = s.byteStore c := rfl

/-! ### finish -/

@[simp] theorem State.finish_x : (s.finish).x = s.x := rfl
@[simp] theorem State.finish_degen : (s.finish).degen = s.degen := rfl
@[simp] theorem State.finish_ieDone : (s.finish).ieDone = s.ieDone := rfl
@[simp] theorem State.finish_ieErr : (s.finish).ieErr = s.ieErr := rfl
@[simp] theorem State.finish_busy : (s.finish).busy = false := rfl
@[simp] theorem State.finish_done : (s.finish).done = true := rfl
@[simp] theorem State.finish_err : (s.finish).err = s.err := rfl
@[simp] theorem State.finish_errCode : (s.finish).errCode = s.errCode := rfl
@[simp] theorem State.finish_cur : (s.finish).cur = s.cur := rfl
@[simp] theorem State.finish_degenL : (s.finish).degenL = s.degenL := rfl
@[simp] theorem State.finish_walk : (s.finish).walk = s.walk := rfl
@[simp] theorem State.finish_offX : (s.finish).offX = s.offX := rfl
@[simp] theorem State.finish_offY : (s.finish).offY = s.offY := rfl
@[simp] theorem State.finish_offZ : (s.finish).offZ = s.offZ := rfl
@[simp] theorem State.finish_bufA : (s.finish).bufA = s.bufA := rfl
@[simp] theorem State.finish_bufB : (s.finish).bufB = s.bufB := rfl
@[simp] theorem State.finish_fbuf : (s.finish).fbuf = s.fbuf := rfl
@[simp] theorem State.finish_nanSeed : (s.finish).nanSeed = s.nanSeed := rfl
@[simp] theorem State.finish_events : (s.finish).events = s.events := rfl
@[simp] theorem State.finish_response : (s.finish).response = s.response := rfl
@[simp] theorem State.finish_readX (j : Fin 21) : (s.finish).readX j = s.readX j := rfl
@[simp] theorem State.finish_byteStore (c : Bool) : (s.finish).byteStore c = s.byteStore c := rfl

/-! ### bumpSeed -/

@[simp] theorem State.bumpSeed_x : (s.bumpSeed).x = s.x := rfl
@[simp] theorem State.bumpSeed_degen : (s.bumpSeed).degen = s.degen := rfl
@[simp] theorem State.bumpSeed_ieDone : (s.bumpSeed).ieDone = s.ieDone := rfl
@[simp] theorem State.bumpSeed_ieErr : (s.bumpSeed).ieErr = s.ieErr := rfl
@[simp] theorem State.bumpSeed_busy : (s.bumpSeed).busy = s.busy := rfl
@[simp] theorem State.bumpSeed_done : (s.bumpSeed).done = s.done := rfl
@[simp] theorem State.bumpSeed_err : (s.bumpSeed).err = s.err := rfl
@[simp] theorem State.bumpSeed_errCode : (s.bumpSeed).errCode = s.errCode := rfl
@[simp] theorem State.bumpSeed_cur : (s.bumpSeed).cur = s.cur := rfl
@[simp] theorem State.bumpSeed_degenL : (s.bumpSeed).degenL = s.degenL := rfl
@[simp] theorem State.bumpSeed_walk : (s.bumpSeed).walk = s.walk := rfl
@[simp] theorem State.bumpSeed_offX : (s.bumpSeed).offX = s.offX := rfl
@[simp] theorem State.bumpSeed_offY : (s.bumpSeed).offY = s.offY := rfl
@[simp] theorem State.bumpSeed_offZ : (s.bumpSeed).offZ = s.offZ := rfl
@[simp] theorem State.bumpSeed_bufA : (s.bumpSeed).bufA = s.bufA := rfl
@[simp] theorem State.bumpSeed_bufB : (s.bumpSeed).bufB = s.bufB := rfl
@[simp] theorem State.bumpSeed_fbuf : (s.bumpSeed).fbuf = s.fbuf := rfl
@[simp] theorem State.bumpSeed_nanSeed : (s.bumpSeed).nanSeed = s.nanSeed + 1 := rfl
@[simp] theorem State.bumpSeed_events : (s.bumpSeed).events = s.events := rfl
@[simp] theorem State.bumpSeed_response : (s.bumpSeed).response = s.response := rfl
@[simp] theorem State.bumpSeed_readX (j : Fin 21) : (s.bumpSeed).readX j = s.readX j := rfl
@[simp] theorem State.bumpSeed_byteStore (c : Bool) : (s.bumpSeed).byteStore c = s.byteStore c := rfl

/-! ### withEvents -/

@[simp] theorem State.withEvents_x (es : List Event) : (s.withEvents es).x = s.x := rfl
@[simp] theorem State.withEvents_degen (es : List Event) : (s.withEvents es).degen = s.degen := rfl
@[simp] theorem State.withEvents_ieDone (es : List Event) : (s.withEvents es).ieDone = s.ieDone := rfl
@[simp] theorem State.withEvents_ieErr (es : List Event) : (s.withEvents es).ieErr = s.ieErr := rfl
@[simp] theorem State.withEvents_busy (es : List Event) : (s.withEvents es).busy = s.busy := rfl
@[simp] theorem State.withEvents_done (es : List Event) : (s.withEvents es).done = s.done := rfl
@[simp] theorem State.withEvents_err (es : List Event) : (s.withEvents es).err = s.err := rfl
@[simp] theorem State.withEvents_errCode (es : List Event) : (s.withEvents es).errCode = s.errCode := rfl
@[simp] theorem State.withEvents_cur (es : List Event) : (s.withEvents es).cur = s.cur := rfl
@[simp] theorem State.withEvents_degenL (es : List Event) : (s.withEvents es).degenL = s.degenL := rfl
@[simp] theorem State.withEvents_walk (es : List Event) : (s.withEvents es).walk = s.walk := rfl
@[simp] theorem State.withEvents_offX (es : List Event) : (s.withEvents es).offX = s.offX := rfl
@[simp] theorem State.withEvents_offY (es : List Event) : (s.withEvents es).offY = s.offY := rfl
@[simp] theorem State.withEvents_offZ (es : List Event) : (s.withEvents es).offZ = s.offZ := rfl
@[simp] theorem State.withEvents_bufA (es : List Event) : (s.withEvents es).bufA = s.bufA := rfl
@[simp] theorem State.withEvents_bufB (es : List Event) : (s.withEvents es).bufB = s.bufB := rfl
@[simp] theorem State.withEvents_fbuf (es : List Event) : (s.withEvents es).fbuf = s.fbuf := rfl
@[simp] theorem State.withEvents_nanSeed (es : List Event) : (s.withEvents es).nanSeed = s.nanSeed := rfl
@[simp] theorem State.withEvents_events (es : List Event) : (s.withEvents es).events = es := rfl
@[simp] theorem State.withEvents_response (es : List Event) : (s.withEvents es).response = s.response := rfl
@[simp] theorem State.withEvents_readX (es : List Event) (j : Fin 21) : (s.withEvents es).readX j = s.readX j := rfl
@[simp] theorem State.withEvents_byteStore (es : List Event) (c : Bool) : (s.withEvents es).byteStore c = s.byteStore c := rfl

/-! ### respond -/

@[simp] theorem State.respond_x (r : Response) : (s.respond r).x = s.x := rfl
@[simp] theorem State.respond_degen (r : Response) : (s.respond r).degen = s.degen := rfl
@[simp] theorem State.respond_ieDone (r : Response) : (s.respond r).ieDone = s.ieDone := rfl
@[simp] theorem State.respond_ieErr (r : Response) : (s.respond r).ieErr = s.ieErr := rfl
@[simp] theorem State.respond_busy (r : Response) : (s.respond r).busy = s.busy := rfl
@[simp] theorem State.respond_done (r : Response) : (s.respond r).done = s.done := rfl
@[simp] theorem State.respond_err (r : Response) : (s.respond r).err = s.err := rfl
@[simp] theorem State.respond_errCode (r : Response) : (s.respond r).errCode = s.errCode := rfl
@[simp] theorem State.respond_cur (r : Response) : (s.respond r).cur = s.cur := rfl
@[simp] theorem State.respond_degenL (r : Response) : (s.respond r).degenL = s.degenL := rfl
@[simp] theorem State.respond_walk (r : Response) : (s.respond r).walk = s.walk := rfl
@[simp] theorem State.respond_offX (r : Response) : (s.respond r).offX = s.offX := rfl
@[simp] theorem State.respond_offY (r : Response) : (s.respond r).offY = s.offY := rfl
@[simp] theorem State.respond_offZ (r : Response) : (s.respond r).offZ = s.offZ := rfl
@[simp] theorem State.respond_bufA (r : Response) : (s.respond r).bufA = s.bufA := rfl
@[simp] theorem State.respond_bufB (r : Response) : (s.respond r).bufB = s.bufB := rfl
@[simp] theorem State.respond_fbuf (r : Response) : (s.respond r).fbuf = s.fbuf := rfl
@[simp] theorem State.respond_nanSeed (r : Response) : (s.respond r).nanSeed = s.nanSeed := rfl
@[simp] theorem State.respond_events (r : Response) : (s.respond r).events = s.events := rfl
@[simp] theorem State.respond_response (r : Response) : (s.respond r).response = some r := rfl
@[simp] theorem State.respond_readX (r : Response) (j : Fin 21) : (s.respond r).readX j = s.readX j := rfl
@[simp] theorem State.respond_byteStore (r : Response) (c : Bool) : (s.respond r).byteStore c = s.byteStore c := rfl

/-! ### writeCtrl -/

@[simp] theorem State.writeCtrl_x (v : Word) : (s.writeCtrl v).x = s.x := rfl
@[simp] theorem State.writeCtrl_degen (v : Word) : (s.writeCtrl v).degen = v.getLsbD 0 := rfl
@[simp] theorem State.writeCtrl_ieDone (v : Word) : (s.writeCtrl v).ieDone = v.getLsbD 1 := rfl
@[simp] theorem State.writeCtrl_ieErr (v : Word) : (s.writeCtrl v).ieErr = v.getLsbD 2 := rfl
@[simp] theorem State.writeCtrl_busy (v : Word) : (s.writeCtrl v).busy = s.busy := rfl
@[simp] theorem State.writeCtrl_done (v : Word) : (s.writeCtrl v).done = s.done := rfl
@[simp] theorem State.writeCtrl_err (v : Word) : (s.writeCtrl v).err = s.err := rfl
@[simp] theorem State.writeCtrl_errCode (v : Word) : (s.writeCtrl v).errCode = s.errCode := rfl
@[simp] theorem State.writeCtrl_cur (v : Word) : (s.writeCtrl v).cur = s.cur := rfl
@[simp] theorem State.writeCtrl_degenL (v : Word) : (s.writeCtrl v).degenL = s.degenL := rfl
@[simp] theorem State.writeCtrl_walk (v : Word) : (s.writeCtrl v).walk = s.walk := rfl
@[simp] theorem State.writeCtrl_offX (v : Word) : (s.writeCtrl v).offX = s.offX := rfl
@[simp] theorem State.writeCtrl_offY (v : Word) : (s.writeCtrl v).offY = s.offY := rfl
@[simp] theorem State.writeCtrl_offZ (v : Word) : (s.writeCtrl v).offZ = s.offZ := rfl
@[simp] theorem State.writeCtrl_bufA (v : Word) : (s.writeCtrl v).bufA = s.bufA := rfl
@[simp] theorem State.writeCtrl_bufB (v : Word) : (s.writeCtrl v).bufB = s.bufB := rfl
@[simp] theorem State.writeCtrl_fbuf (v : Word) : (s.writeCtrl v).fbuf = s.fbuf := rfl
@[simp] theorem State.writeCtrl_nanSeed (v : Word) : (s.writeCtrl v).nanSeed = s.nanSeed := rfl
@[simp] theorem State.writeCtrl_events (v : Word) : (s.writeCtrl v).events = s.events := rfl
@[simp] theorem State.writeCtrl_response (v : Word) : (s.writeCtrl v).response = s.response := rfl
@[simp] theorem State.writeCtrl_readX (v : Word) (j : Fin 21) : (s.writeCtrl v).readX j = s.readX j := rfl
@[simp] theorem State.writeCtrl_byteStore (v : Word) (c : Bool) : (s.writeCtrl v).byteStore c = s.byteStore c := rfl

/-! ### advanceWalk -/

@[simp] theorem State.advanceWalk_x : (s.advanceWalk).x = s.x := rfl
@[simp] theorem State.advanceWalk_degen : (s.advanceWalk).degen = s.degen := rfl
@[simp] theorem State.advanceWalk_ieDone : (s.advanceWalk).ieDone = s.ieDone := rfl
@[simp] theorem State.advanceWalk_ieErr : (s.advanceWalk).ieErr = s.ieErr := rfl
@[simp] theorem State.advanceWalk_busy : (s.advanceWalk).busy = s.busy := rfl
@[simp] theorem State.advanceWalk_done : (s.advanceWalk).done = s.done := rfl
@[simp] theorem State.advanceWalk_err : (s.advanceWalk).err = s.err := rfl
@[simp] theorem State.advanceWalk_errCode : (s.advanceWalk).errCode = s.errCode := rfl
@[simp] theorem State.advanceWalk_cur : (s.advanceWalk).cur = s.cur := rfl
@[simp] theorem State.advanceWalk_degenL : (s.advanceWalk).degenL = s.degenL := rfl
@[simp] theorem State.advanceWalk_walk : (s.advanceWalk).walk = s.walk + 1 := rfl
@[simp] theorem State.advanceWalk_offX : (s.advanceWalk).offX = nextOffset s.offX xMask := rfl
@[simp] theorem State.advanceWalk_offY : (s.advanceWalk).offY = if s.walkX = 15 then nextOffset s.offY yMask else s.offY := rfl
@[simp] theorem State.advanceWalk_offZ : (s.advanceWalk).offZ = if s.walkX = 15 ∧ s.walkY = 15 then nextOffset s.offZ zMask else s.offZ := rfl
@[simp] theorem State.advanceWalk_bufA : (s.advanceWalk).bufA = s.bufA := rfl
@[simp] theorem State.advanceWalk_bufB : (s.advanceWalk).bufB = s.bufB := rfl
@[simp] theorem State.advanceWalk_fbuf : (s.advanceWalk).fbuf = s.fbuf := rfl
@[simp] theorem State.advanceWalk_nanSeed : (s.advanceWalk).nanSeed = s.nanSeed := rfl
@[simp] theorem State.advanceWalk_events : (s.advanceWalk).events = s.events := rfl
@[simp] theorem State.advanceWalk_response : (s.advanceWalk).response = s.response := rfl
@[simp] theorem State.advanceWalk_readX (j : Fin 21) : (s.advanceWalk).readX j = s.readX j := rfl
@[simp] theorem State.advanceWalk_byteStore (c : Bool) : (s.advanceWalk).byteStore c = s.byteStore c := rfl

/-! ### setByteStore: the store named changes and nothing else does -/

@[simp] theorem State.setByteStore_x (b : Bool) (m : Memory 8) : (s.setByteStore b m).x = s.x := by cases b <;> rfl
@[simp] theorem State.setByteStore_degen (b : Bool) (m : Memory 8) : (s.setByteStore b m).degen = s.degen := by cases b <;> rfl
@[simp] theorem State.setByteStore_ieDone (b : Bool) (m : Memory 8) : (s.setByteStore b m).ieDone = s.ieDone := by cases b <;> rfl
@[simp] theorem State.setByteStore_ieErr (b : Bool) (m : Memory 8) : (s.setByteStore b m).ieErr = s.ieErr := by cases b <;> rfl
@[simp] theorem State.setByteStore_busy (b : Bool) (m : Memory 8) : (s.setByteStore b m).busy = s.busy := by cases b <;> rfl
@[simp] theorem State.setByteStore_done (b : Bool) (m : Memory 8) : (s.setByteStore b m).done = s.done := by cases b <;> rfl
@[simp] theorem State.setByteStore_err (b : Bool) (m : Memory 8) : (s.setByteStore b m).err = s.err := by cases b <;> rfl
@[simp] theorem State.setByteStore_errCode (b : Bool) (m : Memory 8) : (s.setByteStore b m).errCode = s.errCode := by cases b <;> rfl
@[simp] theorem State.setByteStore_cur (b : Bool) (m : Memory 8) : (s.setByteStore b m).cur = s.cur := by cases b <;> rfl
@[simp] theorem State.setByteStore_degenL (b : Bool) (m : Memory 8) : (s.setByteStore b m).degenL = s.degenL := by cases b <;> rfl
@[simp] theorem State.setByteStore_walk (b : Bool) (m : Memory 8) : (s.setByteStore b m).walk = s.walk := by cases b <;> rfl
@[simp] theorem State.setByteStore_offX (b : Bool) (m : Memory 8) : (s.setByteStore b m).offX = s.offX := by cases b <;> rfl
@[simp] theorem State.setByteStore_offY (b : Bool) (m : Memory 8) : (s.setByteStore b m).offY = s.offY := by cases b <;> rfl
@[simp] theorem State.setByteStore_offZ (b : Bool) (m : Memory 8) : (s.setByteStore b m).offZ = s.offZ := by cases b <;> rfl
@[simp] theorem State.setByteStore_bufA (b : Bool) (m : Memory 8) : (s.setByteStore b m).bufA = if b then s.bufA else m := by cases b <;> rfl
@[simp] theorem State.setByteStore_bufB (b : Bool) (m : Memory 8) : (s.setByteStore b m).bufB = if b then m else s.bufB := by cases b <;> rfl
@[simp] theorem State.setByteStore_fbuf (b : Bool) (m : Memory 8) : (s.setByteStore b m).fbuf = s.fbuf := by cases b <;> rfl
@[simp] theorem State.setByteStore_nanSeed (b : Bool) (m : Memory 8) : (s.setByteStore b m).nanSeed = s.nanSeed := by cases b <;> rfl
@[simp] theorem State.setByteStore_events (b : Bool) (m : Memory 8) : (s.setByteStore b m).events = s.events := by cases b <;> rfl
@[simp] theorem State.setByteStore_response (b : Bool) (m : Memory 8) : (s.setByteStore b m).response = s.response := by cases b <;> rfl
@[simp] theorem State.setByteStore_readX (b : Bool) (m : Memory 8) (j : Fin 21) :
    (s.setByteStore b m).readX j = s.readX j := by cases b <;> rfl
@[simp] theorem State.setByteStore_byteStore_same (b : Bool) (m : Memory 8) : (s.setByteStore b m).byteStore b = m := by
  cases b <;> rfl
@[simp] theorem State.setByteStore_byteStore_not (b : Bool) (m : Memory 8) :
    (s.setByteStore (!b) m).byteStore b = s.byteStore b := by cases b <;> rfl

/-! ### resetNow: every field as at reset, but the coming events and the NaN seed -/

@[simp] theorem State.resetNow_x : s.resetNow.x = State.reset.x := rfl
@[simp] theorem State.resetNow_degen : s.resetNow.degen = State.reset.degen := rfl
@[simp] theorem State.resetNow_ieDone : s.resetNow.ieDone = State.reset.ieDone := rfl
@[simp] theorem State.resetNow_ieErr : s.resetNow.ieErr = State.reset.ieErr := rfl
@[simp] theorem State.resetNow_busy : s.resetNow.busy = State.reset.busy := rfl
@[simp] theorem State.resetNow_done : s.resetNow.done = State.reset.done := rfl
@[simp] theorem State.resetNow_err : s.resetNow.err = State.reset.err := rfl
@[simp] theorem State.resetNow_errCode : s.resetNow.errCode = State.reset.errCode := rfl
@[simp] theorem State.resetNow_cur : s.resetNow.cur = State.reset.cur := rfl
@[simp] theorem State.resetNow_degenL : s.resetNow.degenL = State.reset.degenL := rfl
@[simp] theorem State.resetNow_walk : s.resetNow.walk = State.reset.walk := rfl
@[simp] theorem State.resetNow_offX : s.resetNow.offX = State.reset.offX := rfl
@[simp] theorem State.resetNow_offY : s.resetNow.offY = State.reset.offY := rfl
@[simp] theorem State.resetNow_offZ : s.resetNow.offZ = State.reset.offZ := rfl
@[simp] theorem State.resetNow_bufA : s.resetNow.bufA = State.reset.bufA := rfl
@[simp] theorem State.resetNow_bufB : s.resetNow.bufB = State.reset.bufB := rfl
@[simp] theorem State.resetNow_fbuf : s.resetNow.fbuf = State.reset.fbuf := rfl
@[simp] theorem State.resetNow_nanSeed : s.resetNow.nanSeed = s.nanSeed := rfl
@[simp] theorem State.resetNow_events : s.resetNow.events = s.events := rfl
@[simp] theorem State.resetNow_response : s.resetNow.response = State.reset.response := rfl

/-! ### Registers -/

@[simp] theorem State.readX_writeX_same (i : Fin 21) (v : Word) : (s.writeX i v).readX i = v := by
  simp [State.readX, State.writeX]

theorem State.readX_writeX_ne (i j : Fin 21) (v : Word) (h : j ≠ i) : (s.writeX i v).readX j = s.readX j := by
  have : i.val ≠ j.val := fun e => h (Fin.ext e.symm)
  simp [State.readX, State.writeX, this]

theorem State.readX_writeX (i j : Fin 21) (v : Word) :
    (s.writeX i v).readX j = if j = i then v else s.readX j := by
  split
  · next h => subst h; simp
  · next h => exact State.readX_writeX_ne s i j v h

/-! ### writeStatus: write-1-to-clear, field by field -/

@[simp] theorem State.writeStatus_x (v : Word) : (s.writeStatus v).x = s.x := by
  unfold State.writeStatus; cases v.getLsbD 1 <;> cases v.getLsbD 2 <;> simp
@[simp] theorem State.writeStatus_degen (v : Word) : (s.writeStatus v).degen = s.degen := by
  unfold State.writeStatus; cases v.getLsbD 1 <;> cases v.getLsbD 2 <;> simp
@[simp] theorem State.writeStatus_ieDone (v : Word) : (s.writeStatus v).ieDone = s.ieDone := by
  unfold State.writeStatus; cases v.getLsbD 1 <;> cases v.getLsbD 2 <;> simp
@[simp] theorem State.writeStatus_ieErr (v : Word) : (s.writeStatus v).ieErr = s.ieErr := by
  unfold State.writeStatus; cases v.getLsbD 1 <;> cases v.getLsbD 2 <;> simp
@[simp] theorem State.writeStatus_busy (v : Word) : (s.writeStatus v).busy = s.busy := by
  unfold State.writeStatus; cases v.getLsbD 1 <;> cases v.getLsbD 2 <;> simp
@[simp] theorem State.writeStatus_done (v : Word) : (s.writeStatus v).done = (s.done && !v.getLsbD 1) := by
  unfold State.writeStatus; cases v.getLsbD 1 <;> cases v.getLsbD 2 <;> simp
@[simp] theorem State.writeStatus_err (v : Word) : (s.writeStatus v).err = (s.err && !v.getLsbD 2) := by
  unfold State.writeStatus; cases v.getLsbD 1 <;> cases v.getLsbD 2 <;> simp
@[simp] theorem State.writeStatus_errCode (v : Word) : (s.writeStatus v).errCode = if v.getLsbD 2 then 0 else s.errCode := by
  unfold State.writeStatus; cases v.getLsbD 1 <;> cases v.getLsbD 2 <;> simp
@[simp] theorem State.writeStatus_cur (v : Word) : (s.writeStatus v).cur = s.cur := by
  unfold State.writeStatus; cases v.getLsbD 1 <;> cases v.getLsbD 2 <;> simp
@[simp] theorem State.writeStatus_degenL (v : Word) : (s.writeStatus v).degenL = s.degenL := by
  unfold State.writeStatus; cases v.getLsbD 1 <;> cases v.getLsbD 2 <;> simp
@[simp] theorem State.writeStatus_walk (v : Word) : (s.writeStatus v).walk = s.walk := by
  unfold State.writeStatus; cases v.getLsbD 1 <;> cases v.getLsbD 2 <;> simp
@[simp] theorem State.writeStatus_offX (v : Word) : (s.writeStatus v).offX = s.offX := by
  unfold State.writeStatus; cases v.getLsbD 1 <;> cases v.getLsbD 2 <;> simp
@[simp] theorem State.writeStatus_offY (v : Word) : (s.writeStatus v).offY = s.offY := by
  unfold State.writeStatus; cases v.getLsbD 1 <;> cases v.getLsbD 2 <;> simp
@[simp] theorem State.writeStatus_offZ (v : Word) : (s.writeStatus v).offZ = s.offZ := by
  unfold State.writeStatus; cases v.getLsbD 1 <;> cases v.getLsbD 2 <;> simp
@[simp] theorem State.writeStatus_bufA (v : Word) : (s.writeStatus v).bufA = s.bufA := by
  unfold State.writeStatus; cases v.getLsbD 1 <;> cases v.getLsbD 2 <;> simp
@[simp] theorem State.writeStatus_bufB (v : Word) : (s.writeStatus v).bufB = s.bufB := by
  unfold State.writeStatus; cases v.getLsbD 1 <;> cases v.getLsbD 2 <;> simp
@[simp] theorem State.writeStatus_fbuf (v : Word) : (s.writeStatus v).fbuf = s.fbuf := by
  unfold State.writeStatus; cases v.getLsbD 1 <;> cases v.getLsbD 2 <;> simp
@[simp] theorem State.writeStatus_nanSeed (v : Word) : (s.writeStatus v).nanSeed = s.nanSeed := by
  unfold State.writeStatus; cases v.getLsbD 1 <;> cases v.getLsbD 2 <;> simp
@[simp] theorem State.writeStatus_events (v : Word) : (s.writeStatus v).events = s.events := by
  unfold State.writeStatus; cases v.getLsbD 1 <;> cases v.getLsbD 2 <;> simp
@[simp] theorem State.writeStatus_response (v : Word) : (s.writeStatus v).response = s.response := by
  unfold State.writeStatus; cases v.getLsbD 1 <;> cases v.getLsbD 2 <;> simp

end Sys2Proof.Machine
end

