-- ==== Sys2Proof/Laws/Step.lean ====
section
/-! SUPPORT. Everything each shared operation of the step can do, said once: what a proof about steps cites instead of unfolding. -/

namespace Sys2Proof.Machine

/-! ### Commands -/

/-- Submitting a word either accepts it or raises its error (10_state.md R35). -/
theorem State.submit_cases (s : State) (w : Word) :
    (∃ i, decode w = .ok i ∧ s.submit w = s.accept w) ∨
    (∃ e, decode w = .error e ∧ s.submit w = s.raiseCmdError e) := by
  unfold State.submit
  cases h : decode w with
  | ok i => exact .inl ⟨i, rfl, rfl⟩
  | error e => exact .inr ⟨e, rfl, rfl⟩

/-- A sampling step answers a next state exactly where its lanes have values. -/
theorem sampleStore_next {conv : Byte → Word} {st : StoreName} {s t : State} :
    sampleStore conv st s = .next t ↔
      ∃ r, sampleLanes s.nanSource s.degenL s.gridCell (s.element conv st) = some r ∧ t = s.sampleResult r := by
  unfold sampleStore
  cases h : sampleLanes s.nanSource s.degenL s.gridCell (s.element conv st) with
  | none => simp
  | some r => simp [eq_comm]

/-- A sampling step is refused exactly where a lane has no value. -/
theorem sampleStore_refused {conv : Byte → Word} {st : StoreName} {s : State} {r : Refusal} :
    sampleStore conv st s = .refused r ↔
      sampleLanes s.nanSource s.degenL s.gridCell (s.element conv st) = none ∧ r = .unwritten st := by
  unfold sampleStore
  cases h : sampleLanes s.nanSource s.degenL s.gridCell (s.element conv st) with
  | none => simp [eq_comm]
  | some r => simp

theorem sampleStore_not_fault {conv : Byte → Word} {st : StoreName} {s : State} {f : Fault} :
    sampleStore conv st s ≠ .fault f := by
  unfold sampleStore
  cases sampleLanes s.nanSource s.degenL s.gridCell (s.element conv st) <;> simp

/-- The eight corner values are there exactly where every element is. -/
theorem cornerValues_some {rd : Nat → Option Word} {g : GridCell} {ch : Nat} {v : Vector Word 8} :
    cornerValues rd g ch = some v ↔ ∀ c : Fin 8, rd (cornerElement g c ch) = some v[c] := by
  constructor
  · intro h c
    unfold cornerValues at h
    split at h
    · cases h
      fin_cases c <;> assumption
    · cases h
  · intro h
    have h0 := h 0; have h1 := h 1; have h2 := h 2; have h3 := h 3
    have h4 := h 4; have h5 := h 5; have h6 := h 6; have h7 := h 7
    unfold cornerValues
    rw [h0, h1, h2, h3, h4, h5, h6, h7]
    simp only [Option.some.injEq]
    apply Vector.ext
    intro i hi
    have : i = 0 ∨ i = 1 ∨ i = 2 ∨ i = 3 ∨ i = 4 ∨ i = 5 ∨ i = 6 ∨ i = 7 := by omega
    rcases this with rfl | rfl | rfl | rfl | rfl | rfl | rfl | rfl <;> rfl

/-- What one unit step of a command can be: a scalar result, a sampling result, the refusal of a sampling step for its
own store, or a walk step. -/
theorem exec_cases (i : Instr) (s : State) :
    (∃ v, exec i s = .next (s.scalarResult v) ∧ (i = .lin ∨ i = .bilin ∨ i = .trilin)) ∨
    (∃ r, exec i s = .next (s.sampleResult r) ∧ (i = .sampleA ∨ i = .sampleB ∨ i = .sampleF)) ∨
    (∃ st, exec i s = .refused (.unwritten st) ∧
      ((i = .sampleA ∧ st = .bufA) ∨ (i = .sampleB ∧ st = .bufB) ∨ (i = .sampleF ∧ st = .fbuf))) ∨
    (∃ dir dz, exec i s = .next (walkStep dir dz s) ∧ i = swizzleInstr dir dz) := by
  have samp : ∀ st, (∃ r, sampleStore byteConv st s = .next (s.sampleResult r)) ∨
      sampleStore byteConv st s = .refused (.unwritten st) := by
    intro st
    unfold sampleStore
    cases sampleLanes s.nanSource s.degenL s.gridCell (s.element byteConv st) with
    | none => exact .inr rfl
    | some r => exact .inl ⟨r, rfl⟩
  cases i with
  | lin => exact .inl ⟨_, rfl, .inl rfl⟩
  | bilin => exact .inl ⟨_, rfl, .inr (.inl rfl)⟩
  | trilin => exact .inl ⟨_, rfl, .inr (.inr rfl)⟩
  | sampleA =>
    rcases samp .bufA with ⟨r, h⟩ | h
    · exact .inr (.inl ⟨r, h, .inl rfl⟩)
    · exact .inr (.inr (.inl ⟨_, h, .inl ⟨rfl, rfl⟩⟩))
  | sampleB =>
    rcases samp .bufB with ⟨r, h⟩ | h
    · exact .inr (.inl ⟨r, h, .inr (.inl rfl)⟩)
    · exact .inr (.inr (.inl ⟨_, h, .inr (.inl ⟨rfl, rfl⟩)⟩))
  | sampleF =>
    rcases samp .fbuf with ⟨r, h⟩ | h
    · exact .inr (.inl ⟨r, h, .inr (.inr rfl)⟩)
    · exact .inr (.inr (.inl ⟨_, h, .inr (.inr ⟨rfl, rfl⟩)⟩))
  | swzAB => exact .inr (.inr (.inr ⟨false, false, rfl, rfl⟩))
  | swzBA => exact .inr (.inr (.inr ⟨true, false, rfl, rfl⟩))
  | dswzAB => exact .inr (.inr (.inr ⟨false, true, rfl, rfl⟩))
  | dswzBA => exact .inr (.inr (.inr ⟨true, true, rfl, rfl⟩))

/-! ### The walk -/

/-- The sample a walk step copies into its destination. -/
def walkCopy (dir deswizzle : Bool) (s : State) : Memory 8 :=
  if deswizzle then copySample (s.byteStore dir) (s.byteStore (!dir)) s.walkTiled s.walkLinear
  else copySample (s.byteStore dir) (s.byteStore (!dir)) s.walkLinear s.walkTiled

/-- A walk step: the copy, the counters, and at the last sample the finish (41_swizzle.md R145). -/
theorem walkStep_eq (dir deswizzle : Bool) (s : State) :
    walkStep dir deswizzle s =
      if s.walkX = 15 ∧ s.walkY = 15 ∧ s.walkZ = 15
      then ((s.setByteStore (!dir) (walkCopy dir deswizzle s)).advanceWalk).finish
      else (s.setByteStore (!dir) (walkCopy dir deswizzle s)).advanceWalk := rfl

/-- The last sample is number 4095. -/
theorem walk_last_iff (s : State) : (s.walkX = 15 ∧ s.walkY = 15 ∧ s.walkZ = 15) ↔ s.walk.toNat = 4095 := by
  have h := s.walk.isLt
  have e : ∀ v : BitVec 4, v = 15 ↔ v.toNat = 15 := by decide
  simp only [e, State.walkX, State.walkY, State.walkZ, BitVec.extractLsb'_toNat, Nat.shiftRight_eq_div_pow]
  omega

/-! ### The unit's turn -/

/-- What the unit's turn can do. -/
theorem unitTurn_cases (s : State) :
    (s.busy = false ∧ unitTurn s = .next s) ∨
    (s.busy = true ∧ ∃ i, decode s.cur = .ok i ∧ unitTurn s = exec i s) ∨
    (s.busy = true ∧ ∃ e, decode s.cur = .error e ∧ unitTurn s = .fault (.curNotACommand s.cur)) := by
  unfold unitTurn
  cases hb : s.busy with
  | false => exact .inl ⟨rfl, rfl⟩
  | true =>
    cases hd : decode s.cur with
    | ok i => exact .inr (.inl ⟨rfl, i, rfl, rfl⟩)
    | error e => exact .inr (.inr ⟨rfl, e, rfl, rfl⟩)

/-! ### The host's turn -/

/-- What a host transaction can do: an answer with no other effect, one update and `OK`, or the refusal of a cell that
nothing has written. -/
inductive HostEffect (s : State) : State → Prop where
  | none : HostEffect s s
  | byte (b : Bool) (off : Nat) (v : Byte) (h : off < Config.nelem) :
      HostEffect s (s.setByteStore b (Memory.write (s.byteStore b) off v))
  | word (b : Bool) (off : Nat) (v : Word) (h : off + 3 < Config.nelem) :
      HostEffect s (s.setByteStore b (writeSampleWord (s.byteStore b) off v))
  | element (i : Nat) (v : Word) (h : i < Config.nelem) : HostEffect s (s.setFbuf (Memory.write s.fbuf i v))
  | ctrl (v : Word) : HostEffect s (s.writeCtrl v)
  | status (v : Word) : HostEffect s (s.writeStatus v)
  | submit (v : Word) (h : s.busy = false) : HostEffect s (s.submit v)
  | reg (i : Fin 21) (v : Word) : HostEffect s (s.writeX i v)

/-- A byte-store address is in range of its store. -/
theorem targetOf_byteStore {a : HostAddr} {b : Bool} {off : Nat} (h : targetOf a = some (.byteStore b off)) :
    off < Config.nelem ∧ (a.toNat = (if b then 0x4000 else 0) + off) := by
  unfold targetOf at h
  simp only [] at h
  unfold Config.nelem
  repeat' split at h
  all_goals first
    | (cases h; simp; omega)
    | cases h

/-- An `FBUF` address is in range. -/
theorem targetOf_fbuf {a : HostAddr} {i : Nat} (h : targetOf a = some (.fbuf i)) :
    i < Config.nelem ∧ i = (a.toNat - 0x10000) / 4 := by
  unfold targetOf at h
  simp only [] at h
  unfold Config.nelem
  repeat' split at h
  all_goals first
    | (cases h; simp; omega)
    | cases h

/-- What a transaction that passed the checks knows of its target. -/
theorem checkTxn_ok {t : HostTxn} {busy : Bool} {g : Target} (h : checkTxn t busy = .ok g) :
    targetOf t.addr = some g ∧ g.widthOk t.isWide = true ∧ (t.isWide = true → t.addr.toNat % 4 = 0) ∧
      g.directionOk t.isWrite = true ∧ (g.locked = true → busy = false) := by
  unfold checkTxn at h
  split at h
  · cases h
  · rename_i g' hg
    split at h
    · cases h
    · rename_i h1
      split at h
      · cases h
      · rename_i h2
        split at h
        · cases h
        · rename_i h3
          split at h
          · cases h
          · rename_i h4
            cases h
            refine ⟨hg, by simpa using h1, ?_, by simpa using h3, ?_⟩
            · intro hw
              by_contra hne
              exact h2 ⟨hw, hne⟩
            · intro hl
              cases hb : busy with
              | false => rfl
              | true => exact absurd ⟨hl, hb⟩ h4

/-- A host transaction never faults, and every next state it gives is one of the effects, with a response. -/
theorem hostStep_cases (t : HostTxn) (s : State) :
    (∃ u r, HostEffect s u ∧ hostStep t s = .next (u.respond r)) ∨
    (∃ st, hostStep t s = .refused (.unwritten st)) := by
  unfold hostStep
  cases hc : checkTxn t s.busy with
  | error c => exact .inl ⟨s, _, .none, rfl⟩
  | ok g =>
    obtain ⟨hg, _, ha, _, hl⟩ := checkTxn_ok hc
    have ansB : ∀ st v, (∃ u r, HostEffect s u ∧ answerByte st s v = .next (u.respond r)) ∨
        (∃ st', answerByte st s v = .refused (.unwritten st')) := by
      intro st v
      cases v with
      | none => exact .inr ⟨_, rfl⟩
      | some b => exact .inl ⟨s, _, .none, rfl⟩
    have ansW : ∀ st v, (∃ u r, HostEffect s u ∧ answerWord st s v = .next (u.respond r)) ∨
        (∃ st', answerWord st s v = .refused (.unwritten st')) := by
      intro st v
      cases v with
      | none => exact .inr ⟨_, rfl⟩
      | some b => exact .inl ⟨s, _, .none, rfl⟩
    cases t with
    | read1 a =>
      cases g with
      | byteStore b off => exact ansB _ _
      | fbuf _ | id | ctrl | status | cmd | reg _ => exact .inl ⟨s, _, .none, rfl⟩
    | read4 a =>
      cases g with
      | byteStore b off => exact ansW _ _
      | fbuf i => exact ansW _ _
      | id | ctrl | status | cmd | reg _ => exact .inl ⟨s, _, .none, rfl⟩
    | write1 a v =>
      cases g with
      | byteStore b off => exact .inl ⟨_, _, .byte b off v (targetOf_byteStore hg).1, rfl⟩
      | fbuf _ | id | ctrl | status | cmd | reg _ => exact .inl ⟨s, _, .none, rfl⟩
    | write4 a v =>
      cases g with
      | byteStore b off =>
        have h1 := targetOf_byteStore hg
        have h2 := ha rfl
        refine .inl ⟨_, _, .word b off v ?_, rfl⟩
        simp only [HostTxn.addr] at h1 h2
        unfold Config.nelem at *
        cases b <;> simp at h1 <;> omega
      | fbuf i => exact .inl ⟨_, _, .element i v (targetOf_fbuf hg).1, rfl⟩
      | id => exact .inl ⟨s, _, .none, rfl⟩
      | ctrl => exact .inl ⟨_, _, .ctrl v, rfl⟩
      | status => exact .inl ⟨_, _, .status v, rfl⟩
      | cmd => exact .inl ⟨_, _, .submit v (hl rfl), rfl⟩
      | reg i => exact .inl ⟨_, _, .reg i v, rfl⟩

/-! ### The byte stores seen by an idle host -/

/-- The host address of an offset of a byte store decodes to it (20_memory.md R62). -/
theorem targetOf_byteStoreAddr (b : Bool) {off : Nat} (h : off < 16384) :
    targetOf (BitVec.ofNat 18 ((if b then 0x4000 else 0) + off)) = some (.byteStore b off) := by
  have e : (BitVec.ofNat 18 ((if b then 0x4000 else 0) + off)).toNat = (if b then 0x4000 else 0) + off := by
    cases b <;> simp <;> omega
  unfold targetOf
  simp only [e]
  cases b
  · simp [h]
  · have h2 : 16384 + off < 32768 := by omega
    simp [h2]

/-- An aligned offset has an aligned host address (20_memory.md R64). -/
theorem byteStoreAddr_aligned (b : Bool) {off : Nat} (ha : off % 4 = 0) :
    (BitVec.ofNat 18 ((if b then 0x4000 else 0) + off)).toNat % 4 = 0 := by
  cases b <;> simp <;> omega

/-- A 1-byte host write of a byte store (20_memory.md R65, R66). -/
theorem hostStep_write1_byteStore (s : State) (b : Bool) {off : Nat} (v : Byte) (h : off < 16384)
    (hb : s.busy = false) :
    hostStep (.write1 (BitVec.ofNat 18 ((if b then 0x4000 else 0) + off)) v) s =
      .next ((s.setByteStore b (Memory.write (s.byteStore b) off v)).respond .ok) := by
  simp [hostStep, checkTxn, HostTxn.addr, targetOf_byteStoreAddr b h, Target.widthOk, Target.directionOk,
    HostTxn.isWide, hb, perform, performWrite1]

/-- A 4-byte host write of a byte store at an aligned offset. -/
theorem hostStep_write4_byteStore (s : State) (b : Bool) {off : Nat} (v : Word) (h : off < 16384) (ha : off % 4 = 0)
    (hb : s.busy = false) :
    hostStep (.write4 (BitVec.ofNat 18 ((if b then 0x4000 else 0) + off)) v) s =
      .next ((s.setByteStore b (writeSampleWord (s.byteStore b) off v)).respond .ok) := by
  have h4 := byteStoreAddr_aligned b ha
  simp only [hostStep, checkTxn, HostTxn.addr, targetOf_byteStoreAddr b h, h4]
  simp [Target.widthOk, Target.directionOk, hb, perform, performWrite4]

/-- A 1-byte host read of a byte store. -/
theorem hostStep_read1_byteStore (s : State) (b : Bool) {off : Nat} (h : off < 16384) (hb : s.busy = false) :
    hostStep (.read1 (BitVec.ofNat 18 ((if b then 0x4000 else 0) + off))) s =
      answerByte (byteStoreName b) s (Memory.read (s.byteStore b) off) := by
  simp [hostStep, checkTxn, HostTxn.addr, targetOf_byteStoreAddr b h, Target.widthOk, Target.directionOk,
    HostTxn.isWide, hb, perform, performRead1]

/-- A 4-byte host read of a byte store at an aligned offset. -/
theorem hostStep_read4_byteStore (s : State) (b : Bool) {off : Nat} (h : off < 16384) (ha : off % 4 = 0)
    (hb : s.busy = false) :
    hostStep (.read4 (BitVec.ofNat 18 ((if b then 0x4000 else 0) + off))) s =
      answerWord (byteStoreName b) s (readSampleWord (s.byteStore b) off) := by
  have h4 := byteStoreAddr_aligned b ha
  simp only [hostStep, checkTxn, HostTxn.addr, targetOf_byteStoreAddr b h, h4]
  simp [Target.widthOk, Target.directionOk, hb, perform, performRead4]

/-! ### The step -/

/-- What a step can be: the unit's turn, the host's, or a reset. -/
theorem step_cases (s : State) :
    (∃ es, step s = unitTurn (s.withEvents es)) ∨
    (∃ t es, s.events = .host t :: es ∧ step s = hostStep t (s.withEvents es)) ∨
    (∃ es, s.events = .rst :: es ∧ step s = .next (s.withEvents es).resetNow) := by
  unfold step
  cases he : s.events with
  | nil =>
    refine .inl ⟨[], ?_⟩
    have : s.withEvents [] = s := by unfold State.withEvents; rw [← he]
    rw [this]
  | cons e es =>
    cases e with
    | unit => exact .inl ⟨es, rfl⟩
    | host t => exact .inr (.inl ⟨t, es, rfl, rfl⟩)
    | rst => exact .inr (.inr ⟨es, rfl, rfl⟩)

/-- A run takes its first step, then runs on from the state it gives. -/
theorem run_succ_of_next {s t : State} (n : Nat) (h : step s = .next t) :
    Host.Core.run core (n + 1) s = Host.Core.run core n t := by
  have h' : core.step s = .next t := h
  simp only [Host.Core.run]
  rw [h']

/-- A run ends where its first step is refused. -/
theorem run_succ_of_refused {s : State} {r : Refusal} (n : Nat) (h : step s = .refused r) :
    Host.Core.run core (n + 1) s = .refused r := by
  have h' : core.step s = .refused r := h
  simp only [Host.Core.run]
  rw [h']

end Sys2Proof.Machine
end

