-- ==== Sys2Proof/Laws/Sample.lean ====
section
/-! SUPPORT. What the ends of the interpolation steps write, and when the lanes of a `SAMPLE` have values. -/

namespace Sys2Proof.Machine

/-- The end of a scalar step writes `R0` and no other register. -/
theorem scalarResult_readX (s : State) (v : Word) (i : Fin 21) :
    (s.scalarResult v).readX i = if i = 17 then v else s.readX i := by
  simp [State.scalarResult, State.readX_writeX, regR0]

/-- The end of a sampling step writes the four lanes to `R0`..`R3` and no other register. -/
theorem sampleResult_readX (s : State) (r : Vector Word 4) (i : Fin 21) :
    (s.sampleResult r).readX i =
      if i = 20 then r[3] else if i = 19 then r[2] else if i = 18 then r[1] else if i = 17 then r[0] else s.readX i := by
  simp [State.sampleResult, State.readX_writeX, regR0, regR1, regR2, regR3]

/-- The four lanes have values exactly where the corner values of each channel do. -/
theorem sampleLanes_some {nan : NaNSource} {dg : Bool} {g : GridCell} {rd : Nat → Option Word} {r : Vector Word 4} :
    sampleLanes nan dg g rd = some r ↔
      ∃ v0 v1 v2 v3, cornerValues rd g 0 = some v0 ∧ cornerValues rd g 1 = some v1 ∧ cornerValues rd g 2 = some v2 ∧
        cornerValues rd g 3 = some v3 ∧
        r = #v[laneResult nan dg g 0 v0, laneResult nan dg g 1 v1, laneResult nan dg g 2 v2,
          laneResult nan dg g 3 v3] := by
  constructor
  · intro h
    unfold sampleLanes at h
    split at h
    · rename_i v0 v1 v2 v3 h0 h1 h2 h3
      cases h
      exact ⟨v0, v1, v2, v3, h0, h1, h2, h3, rfl⟩
    · cases h
  · rintro ⟨v0, v1, v2, v3, h0, h1, h2, h3, rfl⟩
    simp only [sampleLanes, h0, h1, h2, h3]

/-- The located cell is the point's three scaled coordinates with the indices of each (42_sample.md R161, R162). -/
theorem State.gridCell_eq (s : State) :
    s.gridCell = locate (Config.qnanBits s.nanSeed) (s.readX 14) (s.readX 15) (s.readX 16) := rfl

/-- The element of a corner: each coordinate is the upper index where its bit of `c` is 1 (42_sample.md R163). -/
theorem cornerElement_eq (g : GridCell) (c : Fin 8) (ch : Nat) :
    cornerElement g c ch =
      (((if c.val.testBit 2 then g.z1 else g.z0) * 16 + (if c.val.testBit 1 then g.y1 else g.y0)) * 16 +
        (if c.val.testBit 0 then g.x1 else g.x0)) * 4 + ch := by
  fin_cases c <;> rfl

/-- A whole number's binary32 value equals itself: the bypass is taken where two indices coincide. -/
theorem fEq_f32OfNat_self (n : Nat) : fEq (f32OfNat n) (f32OfNat n) = true := by
  have : isNaN (f32OfNat n) = false := isNaN_packBits _ _ (roundUnits_le _ _)
  simp [fEq, this]

end Sys2Proof.Machine
end

