-- ==== Sys2Proof/Laws/Walk.lean ====
section
/-! SUPPORT. The coordinates of the walk as numbers, and how a walk step moves them. -/

namespace Sys2Proof.Machine

theorem State.walkX_toNat (s : State) : s.walkX.toNat = s.walk.toNat % 16 := by simp [State.walkX]

theorem State.walkY_toNat (s : State) : s.walkY.toNat = s.walk.toNat / 16 % 16 := by
  simp [State.walkY, Nat.shiftRight_eq_div_pow]

theorem State.walkZ_toNat (s : State) : s.walkZ.toNat = s.walk.toNat / 256 % 16 := by
  simp [State.walkZ, Nat.shiftRight_eq_div_pow]

/-- A coordinate is at its last value exactly where its number is 15. -/
theorem coord_last : ∀ v : BitVec 4, v = 15 ↔ v.toNat = 15 := by decide

/-- The linear offset of the walk is that of its grid cell (10_state.md R27, R38). -/
theorem State.walkLinear_eq (s : State) :
    s.walkLinear = ((s.walkZ.toNat * 16 + s.walkY.toNat) * 16 + s.walkX.toNat) * 4 := by
  have h := s.walk.isLt
  rw [State.walkX_toNat, State.walkY_toNat, State.walkZ_toNat, State.walkLinear]
  omega

/-- `next` clears the bits outside the mask (41_swizzle.md R144). -/
theorem nextOffset_and (o m : Offset) : nextOffset o m &&& m = nextOffset o m := by
  unfold nextOffset
  rw [BitVec.and_assoc, BitVec.and_self]

/-- A deposit has no bit outside its mask (00_scope.md R8), for the three masks. -/
theorem pdep_and_xMask : ∀ v : BitVec 4, pdep v xMask &&& xMask = pdep v xMask := by decide
theorem pdep_and_yMask : ∀ v : BitVec 4, pdep v yMask &&& yMask = pdep v yMask := by decide
theorem pdep_and_zMask : ∀ v : BitVec 4, pdep v zMask &&& zMask = pdep v zMask := by decide

/-- The three masks have no bit in common and cover bits 13:2 (41_swizzle.md R142). -/
theorem masks_disjoint_cover :
    xMask &&& yMask = 0 ∧ xMask &&& zMask = 0 ∧ yMask &&& zMask = 0 ∧ xMask ||| yMask ||| zMask = 0x3FFC := by decide

end Sys2Proof.Machine
end

