-- ==== Sys2Proof/Machine/HostScript.lean ====
section
/-! DEFINITION. The host-script notation as turns of the host: addresses by name, one line a turn, and the pseudo-instructions (30_encoding.md R97, R98). -/

namespace Sys2Proof.Machine

/-! ### Addresses by name (20_memory.md R62) -/

/-- `BUFA[a]`. -/
def addrBufA (a : Nat) : HostAddr := BitVec.ofNat 18 a
/-- `BUFB[a]`. -/
def addrBufB (a : Nat) : HostAddr := BitVec.ofNat 18 (0x4000 + a)
/-- `FBUF[i]`. -/
def addrFbuf (i : Nat) : HostAddr := BitVec.ofNat 18 (0x10000 + 4 * i)
/-- `ID`. -/
def addrId : HostAddr := 0x20000
/-- `CTRL`. -/
def addrCtrl : HostAddr := 0x20004
/-- `STATUS`. -/
def addrStatus : HostAddr := 0x20008
/-- `CMD`. -/
def addrCmd : HostAddr := 0x2000C
/-- `x[i]`. -/
def addrX (i : Fin 21) : HostAddr := BitVec.ofNat 18 (0x20040 + 4 * i.val)

/-! ### Lines of a script (30_encoding.md R97) -/

/-- `wr4 ADDR, VALUE`. -/
def wr4 (a : HostAddr) (v : Word) : Event := .host (.write4 a v)
/-- `wr1 ADDR, VALUE`. -/
def wr1 (a : HostAddr) (v : Byte) : Event := .host (.write1 a v)
/-- `rd4 ADDR`. -/
def rd4 (a : HostAddr) : Event := .host (.read4 a)
/-- `rd1 ADDR`. -/
def rd1 (a : HostAddr) : Event := .host (.read1 a)
/-- A command mnemonic: `wr4 0x2000C, w` with its word. -/
def command (i : Instr) : Event := wr4 addrCmd (encode i)
/-- `.word W`. -/
def rawWord (w : Word) : Event := wr4 addrCmd w

/-! ### Pseudo-instructions (30_encoding.md R98) -/

/-- `clr`: "clears `DONE`, `ERR`, `ERRCODE`". -/
def clr : Event := wr4 addrStatus 0x00000006
/-- `SWZ` without an operand is `SWZ A>B`. -/
def swzDefault : Event := command .swzAB
/-- `DSWZ` without an operand is `DSWZ B>A`. -/
def dswzDefault : Event := command .dswzBA
/-- `SAMPLE` without an operand is `SAMPLE A`. -/
def sampleDefault : Event := command .sampleA
/-- `ldf Rn, v`, the pattern of `v` given. -/
def ldf (i : Fin 21) (bits : Word) : Event := wr4 (addrX i) bits
/-- `fill S, f(a)` of the first `n` offsets of a byte store (false `BUFA`, true `BUFB`), in increasing order. -/
def fill (b : Bool) (f : Nat → Byte) (n : Nat) : List Event :=
  (List.range n).map fun a => wr1 (if b then addrBufB a else addrBufA a) (f a)
/-- `wait`, where `n` turns are enough for the unit: the unit's turns, then the read of `STATUS` that shows `BUSY` clear
(70_reset_and_hazards.md R221). The polls in between change nothing, so that only the last is kept (log 5). -/
def waitTurns (n : Nat) : List Event := List.replicate n .unit ++ [rd4 addrStatus]

end Sys2Proof.Machine
end

