-- ==== Sys2Proof/Tests/Slice0.lean ====
section
/-! SUPPORT. Small tests, their expected results from 95_test_vectors.md, and a witness for the hypotheses of every obligation that has some. -/

namespace Sys2Proof.Machine.Tests

/-! ### Helpers -/

/-- What a function gives of the next state; none where there is no next state. -/
def after {α : Type} (o : Host.Outcome State Fault Refusal) (f : State → α) : Option α :=
  match o with
  | .next t => some (f t)
  | .fault _ => none
  | .refused _ => none

/-- The step is refused for a cell that nothing has written. -/
def refusedFor (o : Host.Outcome State Fault Refusal) (st : StoreName) : Bool :=
  match o with
  | .next _ => false
  | .fault _ => false
  | .refused r => r == .unwritten st

theorem exists_of_after {α : Type} {o : Host.Outcome State Fault Refusal} {f : State → α} {v : α}
    (h : after o f = some v) : ∃ t, o = .next t ∧ f t = v := by
  cases o with
  | next t => exact ⟨t, rfl, by simpa [after] using h⟩
  | fault _ => cases h
  | refused _ => cases h

/-- A command in progress with some operand registers written, the others 0. -/
def scalarState (dg : Bool) (vals : List (Fin 21 × Word)) : State :=
  vals.foldl (fun s p => s.writeX p.1 p.2) { State.reset with busy := true, degenL := dg }

/-- The four results `R0`..`R3`. -/
def results (t : State) : List Word := [t.readX 17, t.readX 18, t.readX 19, t.readX 20]

/-- The elements of the grid cells that some coordinates span, in rising order. -/
def gridElements (xs ys zs : List Nat) : List Nat :=
  zs.flatMap fun z => ys.flatMap fun y => xs.flatMap fun x => [0, 1, 2, 3].map (elementIndex x y z)

/-- Byte `a` of volume G (95_test_vectors.md section 1). -/
def gradByte (a : Nat) : Byte :=
  if a % 4 = 0 then BitVec.ofNat 8 (17 * (a / 4 % 16))
  else if a % 4 = 1 then BitVec.ofNat 8 (17 * (a / 64 % 16))
  else if a % 4 = 2 then BitVec.ofNat 8 (17 * (a / 1024))
  else 255

/-- `f32(k/15)` for the `k` used here, from the table of 95_test_vectors.md section 1. -/
def fifteenth (k : Nat) : Word :=
  if k = 3 then 0x3E4CCCCD else if k = 4 then 0x3E888889 else if k = 7 then 0x3EEEEEEF
  else if k = 8 then 0x3F088889 else if k = 10 then 0x3F2AAAAB else if k = 11 then 0x3F3BBBBC else 0

/-- Element `e` of volume FG. -/
def gradFloat (e : Nat) : Word :=
  if e % 4 = 0 then fifteenth (e / 4 % 16)
  else if e % 4 = 1 then fifteenth (e / 64 % 16)
  else if e % 4 = 2 then fifteenth (e / 1024)
  else 0x3F800000

/-- The part of G that some grid cells hold. -/
def gradCells (xs ys zs : List Nat) : Memory 8 := (gridElements xs ys zs).map fun a => (a, gradByte a)

/-- A state that samples at a point. -/
def sampleState (dg : Bool) (px py pz : Word) (a b : Memory 8) (f : Memory 32) : State :=
  { scalarState dg [(14, px), (15, py), (16, pz)] with bufA := a, bufB := b, fbuf := f }

/-- The point of vectors Q1 and F1. -/
def pointQ1 (a b : Memory 8) (f : Memory 32) : State := sampleState false 0x3F000000 0x3E800000 0x3F333333 a b f

/-- A swizzle command at a sample of its walk. -/
def walkState (i : Instr) (walk : BitVec 12) (ox oy oz : Offset) (a b : Memory 8) : State :=
  { State.reset with busy := true, cur := encode i, walk := walk, offX := ox, offY := oy, offZ := oz, bufA := a, bufB := b }

/-- The walk counters. -/
def counters (t : State) : Nat × Nat × Nat × Nat := (t.walk.toNat, t.offX.toNat, t.offY.toNat, t.offZ.toNat)

/-! ### Well-formedness (30_encoding.md R91 to R93) -/

theorem test_wf_good : (⟨0, 2, 4⟩ : Fields).wellFormed = true := by decide
theorem test_wf_bad_opcode : (⟨0, 0, 5⟩ : Fields).opcLegal = false ∧ (⟨0, 0, 5⟩ : Fields).wellFormed = false := by decide
theorem test_wf_bad_zero : (⟨1, 0, 1⟩ : Fields).zeroLegal = false ∧ (⟨1, 0, 1⟩ : Fields).wellFormed = false := by decide
theorem test_wf_bad_sel_lin : (⟨0, 1, 1⟩ : Fields).selLegal = false ∧ (⟨0, 1, 1⟩ : Fields).wellFormed = false := by decide
theorem test_wf_bad_sel_sample : (⟨0, 3, 4⟩ : Fields).selLegal = false ∧ (⟨0, 3, 4⟩ : Fields).wellFormed = false := by decide
theorem test_wf_bad_sel_swz : (⟨0, 2, 8⟩ : Fields).selLegal = false ∧ (⟨0, 2, 9⟩ : Fields).wellFormed = false := by decide

/-! ### Decoding: `ZERO` (26 bits), `SEL` (2), `OPC` (4), written out from 30_encoding.md R91 to R93 -/

theorem test_decode_lin : decode (0b00000000000000000000000000#26 ++ 0b00#2 ++ 0b0001#4) = .ok .lin := by rfl
theorem test_decode_bilin : decode (0b00000000000000000000000000#26 ++ 0b00#2 ++ 0b0010#4) = .ok .bilin := by rfl
theorem test_decode_trilin : decode (0b00000000000000000000000000#26 ++ 0b00#2 ++ 0b0011#4) = .ok .trilin := by rfl
theorem test_decode_sampleA : decode (0b00000000000000000000000000#26 ++ 0b00#2 ++ 0b0100#4) = .ok .sampleA := by rfl
theorem test_decode_sampleB : decode (0b00000000000000000000000000#26 ++ 0b01#2 ++ 0b0100#4) = .ok .sampleB := by rfl
theorem test_decode_sampleF : decode (0b00000000000000000000000000#26 ++ 0b10#2 ++ 0b0100#4) = .ok .sampleF := by rfl
theorem test_decode_swzAB : decode (0b00000000000000000000000000#26 ++ 0b00#2 ++ 0b1000#4) = .ok .swzAB := by rfl
theorem test_decode_swzBA : decode (0b00000000000000000000000000#26 ++ 0b01#2 ++ 0b1000#4) = .ok .swzBA := by rfl
theorem test_decode_dswzAB : decode (0b00000000000000000000000000#26 ++ 0b00#2 ++ 0b1001#4) = .ok .dswzAB := by rfl
theorem test_decode_dswzBA : decode (0b00000000000000000000000000#26 ++ 0b01#2 ++ 0b1001#4) = .ok .dswzBA := by rfl

/-- The encoder writes the words of 30_encoding.md R100. -/
theorem test_encode : [Instr.lin, .bilin, .trilin, .sampleA, .sampleB, .sampleF, .swzAB, .swzBA, .dswzAB, .dswzBA].map encode =
    [0x1, 0x2, 0x3, 0x4, 0x14, 0x24, 0x8, 0x18, 0x9, 0x19] := by decide

/-- The refused words of 95_test_vectors.md section 3, with the `STATUS` they leave: code 1. -/
theorem test_refused_opcode :
    ([0x0, 0x5, 0x6, 0x7, 0xA, 0xF, 0x10, 0x100, 0x45, 0xFFFFFFFF] : List Word).map
      (fun w => (State.reset.submit w).statusWord) = List.replicate 10 0x14 := by decide

/-- Code 2. -/
theorem test_refused_reserved_bits :
    ([0x41, 0x44, 0x48, 0x80000008, 0x71] : List Word).map (fun w => (State.reset.submit w).statusWord) =
      List.replicate 5 0x24 := by decide

/-- Code 3. -/
theorem test_refused_reserved_sel :
    ([0x11, 0x21, 0x31, 0x12, 0x22, 0x33, 0x34, 0x28, 0x38, 0x29, 0x39] : List Word).map
      (fun w => (State.reset.submit w).statusWord) = List.replicate 11 0x34 := by decide

/-! ### Arithmetic (95_test_vectors.md section 4) -/

/-- Vectors L16, L21, L22: overflow, a subnormal operand, a subnormal result. -/
theorem test_float_edges :
    subValue 0xFF61B1E6 0x7F61B1E6 = some 0xFF800000 ∧ mulValue 0x00000001 0x3F800000 = some 0x00000001 ∧
    mulValue 0x3F000000 0x00000002 = some 0x00000001 ∧ divValue 0x3F000000 0x80000000 = some 0xFF800000 := by decide

/-- `f32(n)` of 95_test_vectors.md section 1. -/
theorem test_f32OfNat : f32OfNat 255 = 0x437F0000 ∧ f32OfNat 15 = 0x41700000 ∧ f32OfNat 0 = 0 := by decide

/-! ### LIN, BILIN, TRILIN: one step each -/

/-- Vector L5: bounds that fall. -/
theorem test_lin_L5 :
    after (exec .lin (scalarState false
      [(14, 0x3F400000), (8, 0x3F800000), (9, 0), (0, 0x41200000), (1, 0x41A00000)])) (fun t => (t.readX 17, t.statusWord))
    = some (0x41480000, 0x2) := by decide

/-- Vector L7 in both modes: the degenerate interval. -/
theorem test_lin_L7 :
    [false, true].map (fun dg => after (exec .lin (scalarState dg
      [(14, 0x3F000000), (8, 0x3F800000), (9, 0x3F800000), (0, 0x40400000), (1, 0x40A00000)])) (fun t => t.readX 17))
    = [some 0xFF800000, some 0x40400000] := by decide

/-- The operands of the BILIN vectors. -/
def bilinState (dg : Bool) (px py y0 y1 : Word) : State :=
  scalarState dg [(14, px), (15, py), (9, 0x3F800000), (10, y0), (11, y1), (0, 0x41200000), (1, 0x41A00000),
    (2, 0x41F00000), (3, 0x42480000)]

/-- Vector B2. -/
theorem test_bilin_B2 :
    after (exec .bilin (bilinState false 0x3E800000 0x3F400000 0 0x3F800000)) (fun t => t.readX 17) = some 0x41EB0000 := by
  decide

/-- Vector B10, D1: `Y` degenerate. -/
theorem test_bilin_B10 :
    after (exec .bilin (bilinState true 0x3E800000 0x40400000 0x40400000 0x40400000)) (fun t => t.readX 17)
    = some 0x41480000 := by decide

set_option maxRecDepth 100000 in
/-- Vector T11. -/
theorem test_trilin_T11 :
    after (exec .trilin (scalarState false
      [(14, 0x3E800000), (15, 0x3F000000), (16, 0x3F400000), (9, 0x3F800000), (11, 0x3F800000), (13, 0x3F800000),
       (0, 0x40400000), (1, 0x3F800000), (2, 0x40800000), (3, 0x3F800000), (4, 0x40A00000), (5, 0x41100000),
       (6, 0x40000000), (7, 0x40C00000)])) (fun t => t.readX 17) = some 0x40830000 := by decide

set_option maxRecDepth 100000 in
/-- Vector T13: bounds 2..3, 0..2, −1..0. -/
theorem test_trilin_T13 :
    after (exec .trilin (scalarState false
      [(14, 0x40200000), (15, 0x3F800000), (16, 0xBF000000), (8, 0x40000000), (9, 0x40400000), (11, 0x40000000),
       (12, 0xBF800000), (1, 0x3F800000), (2, 0x40000000), (3, 0x40400000), (4, 0x40800000), (5, 0x40A00000),
       (6, 0x40C00000), (7, 0x40E00000)])) (fun t => t.readX 17) = some 0x40600000 := by decide

/-! ### SAMPLE: one step each (95_test_vectors.md section 6) -/

/-- The part of G that vectors Q1 reads. -/
def cellsQ1 : Memory 8 := gradCells [7, 8] [3, 4] [10, 11]

set_option maxRecDepth 100000 in
/-- Vector Q1. -/
theorem test_sampleA_Q1 :
    after (exec .sampleA (pointQ1 cellsQ1 [] [])) results
    = some [0x42FF0000, 0x427F0000, 0x43328000, 0x437F0000] := by decide

set_option maxRecDepth 100000 in
/-- Vector Q9, D1: a node of the grid. -/
theorem test_sampleA_Q9 :
    after (exec .sampleA (sampleState true 0x3EAAAAAB 0x3F2AAAAB 0x3F800000 (gradCells [5] [10] [15]) [] [])) results
    = some [0x42AA0000, 0x432A0000, 0x437F0000, 0x437F0000] := by decide

set_option maxRecDepth 100000 in
/-- Vector Q1 with the table in `BUFB`. -/
theorem test_sampleB_Q1 :
    after (exec .sampleB (pointQ1 [] cellsQ1 [])) results
    = some [0x42FF0000, 0x427F0000, 0x43328000, 0x437F0000] := by decide

set_option maxRecDepth 100000 in
/-- Vector Q15, D1, with the table in `BUFB`: minus infinity is index 0. -/
theorem test_sampleB_Q15 :
    after (exec .sampleB (sampleState true 0xFF800000 0x3F000000 0x3F000000 [] (gradCells [0] [7, 8] [7, 8]) [])) results
    = some [0, 0x42FF0000, 0x42FF0000, 0x437F0000] := by decide

set_option maxRecDepth 100000 in
/-- Vector F1. -/
theorem test_sampleF_F1 :
    after (exec .sampleF (pointQ1 [] [] ((gridElements [7, 8] [3, 4] [10, 11]).map fun e => (e, gradFloat e)))) results
    = some [0x3F000000, 0x3E800000, 0x3F333334, 0x3F800000] := by decide

set_option maxRecDepth 100000 in
/-- A `SAMPLE` of a table that is in another store is refused (70_reset_and_hazards.md R214). -/
theorem test_sampleF_unwritten : refusedFor (exec .sampleF (pointQ1 cellsQ1 cellsQ1 [])) .fbuf = true := by decide

/-! ### SWZ, DSWZ: one walk step each (95_test_vectors.md section 5) -/

/-- `WALK` 15: linear 60 to tiled 300. -/
theorem test_swzAB_walk15 :
    after (exec .swzAB (walkState .swzAB 15 300 0 0 [(60, 1), (61, 2), (62, 3), (63, 4)] []))
      (fun t => (t.bufB, counters t, t.statusWord))
    = some ([(300, 1), (301, 2), (302, 3), (303, 4)], (16, 0, 16, 0), 1) := by decide

/-- `WALK` 255: linear 1020 to tiled 8700. -/
theorem test_swzBA_walk255 :
    after (exec .swzBA (walkState .swzBA 255 300 8400 0 [(8700, 9)] [(1020, 1), (1023, 4)]))
      (fun t => (t.bufA, counters t)) = some ([(8700, 1), (8703, 4)], (256, 0, 0, 512)) := by decide

/-- `WALK` 16: tiled 16 to linear 64. -/
theorem test_dswzAB_walk16 :
    after (exec .dswzAB (walkState .dswzAB 16 0 16 0 [(16, 1), (17, 2), (18, 3), (19, 4)] []))
      (fun t => (t.bufB, counters t)) = some ([(64, 1), (65, 2), (66, 3), (67, 4)], (17, 4, 16, 0)) := by decide

/-- `WALK` 4095: the last sample, and the finish. -/
theorem test_dswzBA_walk4095 :
    after (exec .dswzBA (walkState .dswzBA 4095 300 8400 7680 [] [(16383, 7)]))
      (fun t => (t.bufA, counters t, t.statusWord)) = some ([(16383, 7)], (0, 0, 0, 0), 2) := by decide

/-- The increments of 95_test_vectors.md section 5. -/
theorem test_nextOffset :
    ([0, 4, 12, 44, 268, 300] : List Offset).map (nextOffset · xMask) = [4, 8, 32, 256, 288, 0] ∧
    ([0, 16, 208, 8400] : List Offset).map (nextOffset · yMask) = [16, 64, 8192, 0] ∧
    ([0, 3584, 7680] : List Offset).map (nextOffset · zMask) = [512, 4096, 0] := by decide

/-- Tiled offsets of 95_test_vectors.md section 5: cells (3,5,9), (10,7,12), (12,1,0). -/
theorem test_tiledOffset : tiledOffset 3 5 9 = 4764 ∧ tiledOffset 10 7 12 = 6616 ∧ tiledOffset 12 1 0 = 304 := by decide

/-! ### Host port (95_test_vectors.md section 7) -/

/-- Byte order. -/
theorem test_byte_order :
    readSampleWord [(0, 0x11), (1, 0x22), (2, 0x33), (3, 0x44)] 0 = some 0x44332211 ∧
    writeSampleWord [] 4 0xAABBCCDD = [(4, 0xDD), (5, 0xCC), (6, 0xBB), (7, 0xAA)] := by decide

/-- The addresses section 7 gives. -/
theorem test_addresses :
    addrBufA 300 = 0x0012C ∧ addrBufB 300 = 0x0412C ∧ addrFbuf 9550 = 0x19538 ∧ addrX regPX = 0x20078 ∧
    addrX regR0 = 0x20084 ∧ addrX regR3 = 0x20090 := by decide

/-- What the check of a transaction answers: none where it passes. -/
def causeOf (t : HostTxn) (busy : Bool) : Option BusCause :=
  match checkTxn t busy with
  | .error c => some c
  | .ok _ => none

/-- The bus errors of section 7, in its order. -/
theorem test_bus_errors :
    [HostTxn.read4 0x2000C, .write4 0x20000 1, .read1 0x20004, .read1 0x10001, .read4 0x00002, .read4 0x10002,
      .read4 0x20042, .read1 0x08000, .read4 0x20010, .read4 0x20094, .read4 0x3FFFC, .read1 0x00003, .read4 0x20000].map
      (causeOf · false)
    = [some .direction, some .direction, some .width, some .width, some .misaligned, some .misaligned, some .misaligned,
      some .unmapped, some .unmapped, some .unmapped, some .unmapped, none, none] := by decide

/-- The busy lock-out of section 7. -/
theorem test_busy_lockout :
    [HostTxn.read1 0, .read1 0x4000, .read4 0x10000, .read4 0x20084, .write4 0x20078 0, .write4 0x2000C 1, .read4 0x20008,
      .read4 0x20004, .write4 0x20004 0, .read4 0x20000, .write4 0x20008 2].map (causeOf · true)
    = [some .busy, some .busy, some .busy, some .busy, some .busy, some .busy, none, none, none, none, none] := by decide

/-- From the status sequence of section 7: two errors, then write-1-to-clear, `irq` with `IE_ERR`. -/
theorem test_status_sequence :
    let e1 := (State.reset.submit 0).submit 0x41
    let e2 := (State.reset.writeCtrl 0xFFFFFFFF).submit 0x71
    e1.statusWord = 0x14 ∧ (e1.writeStatus 6).statusWord = 0 ∧ (e1.submit 1).statusWord = 0x15 ∧
    ((e1.submit 1).finish).statusWord = 0x16 ∧ (((e1.submit 1).finish).writeStatus 2).statusWord = 0x14 ∧
    e2.ctrlWord = 7 ∧ e2.statusWord = 0x24 ∧ e2.irq = true ∧ (e2.writeStatus 0xFFFFFFFF).irq = false := by decide

/-- A command line of a host script submits its word (30_encoding.md R97). -/
theorem test_script_line :
    after (step { State.reset with events := [command .dswzBA] }) (fun t => (t.cur, t.statusWord, t.response))
    = some (0x19, 1, some .ok) := by decide

/-! ### Witnesses: values that meet the hypotheses of an obligation together, at boundary values -/

theorem witness_DecodeEncodeAgree : Instr.dswzBA.wellFormed = true ∧ decode 0x00000019#32 = .ok .dswzBA := ⟨by decide, rfl⟩

theorem witness_LegalFieldsDecode :
    (⟨0, 1, 9⟩ : Fields).wellFormed = true ∧ decode (Fields.toWord ⟨0, 1, 9⟩) = .ok .dswzBA := ⟨by decide, rfl⟩

/-- One word for each clause: the first reserved opcode above the legal ones, the lowest reserved high bit, the lowest
reserved selector of each kind of opcode, and the last legal word. -/
theorem witness_SubmitFollowsDecodeOrder :
    let known := fun n : Nat => n % 16 = 1 ∨ n % 16 = 2 ∨ n % 16 = 3 ∨ n % 16 = 4 ∨ n % 16 = 8 ∨ n % 16 = 9
    let reserved := fun n : Nat => ((n % 16 = 1 ∨ n % 16 = 2 ∨ n % 16 = 3) ∧ n / 16 % 4 ≠ 0) ∨
      (n % 16 = 4 ∧ n / 16 % 4 = 3) ∨ ((n % 16 = 8 ∨ n % 16 = 9) ∧ 2 ≤ n / 16 % 4)
    ¬known (0xA#32).toNat ∧
    (known (0x41#32).toNat ∧ (0x41#32).toNat / 64 ≠ 0) ∧
    (known (0x11#32).toNat ∧ (0x11#32).toNat / 64 = 0 ∧ reserved (0x11#32).toNat) ∧
    (known (0x34#32).toNat ∧ (0x34#32).toNat / 64 = 0 ∧ reserved (0x34#32).toNat) ∧
    (known (0x29#32).toNat ∧ (0x29#32).toNat / 64 = 0 ∧ reserved (0x29#32).toNat) ∧
    (known (0x24#32).toNat ∧ (0x24#32).toNat / 64 = 0 ∧ ¬reserved (0x24#32).toNat) := by
  dsimp only
  refine ⟨?_, ?_, ?_, ?_, ?_, ?_⟩ <;> decide

/-- A state with a command accepted and some events. -/
def accepted (w : Word) (es : List Event) : State := ({ State.reset with events := es }).accept w

theorem witness_StepRunsTheDecodedCommand :
    Instr.lin.wellFormed = true ∧
    ((accepted 1 []).busy = true ∧ decode (accepted 1 []).cur = .ok .lin ∧ (accepted 1 []).events = []) ∧
    ((accepted 1 [.unit, rd4 addrStatus]).busy = true ∧ decode (accepted 1 [.unit, rd4 addrStatus]).cur = .ok .lin ∧
      (accepted 1 [.unit, rd4 addrStatus]).events = .unit :: [rd4 addrStatus]) :=
  ⟨rfl, ⟨rfl, rfl, rfl⟩, ⟨rfl, rfl, rfl⟩⟩

theorem witness_PlacedWordRunsNext : Instr.sampleF.wellFormed = true := by decide

theorem witness_IdleUnitChangesNothing :
    (State.reset.busy = false ∧ State.reset.events = []) ∧
    (({ State.reset with events := [.unit] }).busy = false ∧ ({ State.reset with events := [.unit] }).events = .unit :: []) :=
  ⟨⟨rfl, rfl⟩, rfl, rfl⟩

set_option maxRecDepth 100000 in
/-- `5 / 2` units lies half way between 2 and 3, and the even one is delivered; one unit of measure below the overflow
threshold the result is still finite, and at it the infinity. -/
theorem witness_RoundUnitsNearestEven :
    (0 < 2 ∧ roundUnits 5 2 < infBits ∧ isFinite 0x00000003#32 = true ∧
      |(magnitude (packBits false (roundUnits 5 2)) * 2 : Int) - 5| = |(magnitude 0x00000003#32 * 2 : Int) - 5|) ∧
    roundUnits ((2 ^ 25 - 1) * 2 ^ 252 - 1) 1 < infBits ∧ roundUnits ((2 ^ 25 - 1) * 2 ^ 252) 1 = infBits := by
  decide

/-- A NaN source for the witnesses. -/
def nan0 : NaNSource := fun _ _ _ => 0

set_option maxRecDepth 100000 in
/-- `2^24 ⊕ 1`, a tie; `x ⊖ y` of the largest magnitude, which overflows; and a negative sum. -/
theorem witness_AddSubCorrectlyRounded :
    (isFinite 0x4B800000#32 = true ∧ isFinite 0x3F800000#32 = true ∧ isFinite 0x4B800001#32 = true ∧
      unitsInt 0x4B800000#32 + unitsInt 0x3F800000#32 ≠ 0 ∧
      fAdd nan0 0 0x4B800000#32 0x3F800000#32 = 0x4B800000#32 ∧
      |unitsInt 0x4B800000#32 - (unitsInt 0x4B800000#32 + unitsInt 0x3F800000#32)| =
        |unitsInt 0x4B800001#32 - (unitsInt 0x4B800000#32 + unitsInt 0x3F800000#32)|) ∧
    (isFinite 0xFF7FFFFF#32 = true ∧ isFinite 0x7F7FFFFF#32 = true ∧
      (2 ^ 25 - 1) * 2 ^ 252 ≤ |unitsInt 0xFF7FFFFF#32 - unitsInt 0x7F7FFFFF#32| ∧
      isInf (fSub nan0 0 0xFF7FFFFF#32 0x7F7FFFFF#32) = true) := by decide

set_option maxRecDepth 100000 in
/-- The least subnormal times 0.5, a tie that is rounded to the even zero. -/
theorem witness_MulCorrectlyRounded :
    isFinite 0x00000001#32 = true ∧ isFinite 0x3F000000#32 = true ∧
    isFinite (fMul nan0 0 0x00000001#32 0x3F000000#32) = true ∧ isFinite 0x00000001#32 = true ∧
    |unitsInt (fMul nan0 0 0x00000001#32 0x3F000000#32) * 2 ^ 149 - unitsInt 0x00000001#32 * unitsInt 0x3F000000#32| =
      |unitsInt 0x00000001#32 * 2 ^ 149 - unitsInt 0x00000001#32 * unitsInt 0x3F000000#32| := by decide

set_option maxRecDepth 100000 in
/-- The least subnormal divided by 2, and a quotient that overflows. -/
theorem witness_DivCorrectlyRounded :
    (isFinite 0x00000001#32 = true ∧ isFinite 0x40000000#32 = true ∧ isZero 0x40000000#32 = false ∧
      isFinite (fDiv nan0 0 0x00000001#32 0x40000000#32) = true ∧
      |unitsInt (fDiv nan0 0 0x00000001#32 0x40000000#32) * unitsInt 0x40000000#32 - unitsInt 0x00000001#32 * 2 ^ 149| =
        |unitsInt 0x00000001#32 * unitsInt 0x40000000#32 - unitsInt 0x00000001#32 * 2 ^ 149|) ∧
    (isFinite 0x7F7FFFFF#32 = true ∧ isFinite 0x3F000000#32 = true ∧ isZero 0x3F000000#32 = false ∧
      isInf (fDiv nan0 0 0x7F7FFFFF#32 0x3F000000#32) = true) := by decide

/-- One pair of operands for each row of 40_interpolate.md R122 that has a condition. -/
theorem witness_SpecialOperandTable :
    isFinite 0x00000001#32 = true ∧
    (isFinite 0x00000001#32 = true ∧ isZero 0x00000001#32 = false ∧ isZero 0x80000000#32 = true) ∧
    (isZero 0x00000000#32 = true ∧ isZero 0x80000000#32 = true) ∧
    (isInf 0x7F800000#32 = true ∧ isInf 0xFF800000#32 = true) ∧
    (isInf 0xFF800000#32 = true ∧ isZero 0x80000000#32 = true) ∧
    (isFinite 0x7F7FFFFF#32 = true ∧ isInf 0xFF800000#32 = true) ∧
    (isInf 0xFF800000#32 = true ∧ isFinite 0x7F7FFFFF#32 = true) ∧
    (isInf 0xFF800000#32 = true ∧ isFinite 0x00000001#32 = true ∧ isZero 0x00000001#32 = false) ∧
    (isNaN 0x7F800001#32 = true ∨ isNaN 0x00000000#32 = true) ∧
    isZero (fMul nan0 0 0x80000000#32 0x7F7FFFFF#32) = true ∧ isZero (fDiv nan0 0 0x00000000#32 0xFF800000#32) = true := by
  decide

/-- The quotient of two zeros is a NaN, whatever the free bits. -/
theorem witness_DeliveredNaNsAreQuiet :
    (∀ (nan : NaNSource) (place : Nat), isNaN (fDiv nan place 0x00000000#32 0x80000000#32) = true) ∧
    isQuietNaN 0xFFC00000#32 = true ∧ isQuietNaN 0x7FFFFFFF#32 = true :=
  ⟨fun nan place => isNaN_of_quiet (isQuietNaN_deliver_none nan place _ _), by decide, by decide⟩

theorem witness_WholeNumbersConvertExactly : 0 < 2 ^ 24 ∧ 2 ^ 24 - 1 < 2 ^ 24 := by decide

/-- Equal bounds, the largest finite ones; and the two zeros. -/
theorem witness_LinBypassReturnsLowerCorner :
    (isNaN 0x7F7FFFFF#32 = false ∧ (0x7F7FFFFF#32 = 0x7F7FFFFF#32 ∨ (isZero 0x7F7FFFFF#32 = true ∧ isZero 0x7F7FFFFF#32 = true))) ∧
    (isNaN 0x00000000#32 = false ∧ isNaN 0x80000000#32 = false ∧
      (0x00000000#32 = 0x80000000#32 ∨ (isZero 0x00000000#32 = true ∧ isZero 0x80000000#32 = true))) := by decide

/-- Vectors L9 (point on the bound), L10 (corners equal) and L11 (neither). -/
theorem witness_LinDegenerateIsIEEE :
    (isFinite 0x3F800000#32 = true ∧ isFinite 0x40400000#32 = true ∧ isFinite 0x40A00000#32 = true ∧
      fEq 0x3F800000#32 0x3F800000#32 = true) ∧
    (isFinite 0x3FC00000#32 = true ∧ fEq 0x40400000#32 0x40400000#32 = true) ∧
    (isFinite 0x3F000000#32 = true ∧ isFinite 0x00000000#32 = true ∧ fEq 0x00000000#32 0x80000000#32 = true ∧
      fEq 0x3F000000#32 0x00000000#32 = false ∧ fEq 0x40E00000#32 0x41100000#32 = false) := by decide

/-- Vector L14 without the bypass; vector L12, where the bounds are NaNs and so the bypass is not taken. -/
theorem witness_LinNaNOperandGivesNaN :
    ((false && fEq 0x00000000#32 0x3F800000#32) = false ∧ isNaN 0x7FC00000#32 = true) ∧
    ((true && fEq 0x7FC00000#32 0x7FC00000#32) = false ∧ isNaN 0x7FC00000#32 = true) := by decide

set_option maxRecDepth 100000 in
/-- Corners 3 and 5: the difference is finite and is the value 2; and corners of the largest magnitude, equal. -/
theorem witness_LinUnitBoundsEnds :
    (isFinite 0x40400000#32 = true ∧ isFinite 0x40A00000#32 = true ∧
      isFinite (fSub nan0 3 0x40A00000#32 0x40400000#32) = true ∧
      isFinite 0x40000000#32 = true ∧ unitsInt 0x40000000#32 = unitsInt 0x40A00000#32 - unitsInt 0x40400000#32) ∧
    (isFinite 0x7F7FFFFF#32 = true ∧ isFinite (fSub nan0 3 0x7F7FFFFF#32 0x7F7FFFFF#32) = true ∧
      isFinite 0x80000000#32 = true ∧ unitsInt 0x80000000#32 = unitsInt 0x7F7FFFFF#32 - unitsInt 0x7F7FFFFF#32) := by
  decide

/-- A NaN; 14.999999 below the upper clamp; 15 at it; −0.5, whose floor is below the lower clamp and whose ceil is 0. -/
theorem witness_SampleIndicesClampFloorCeil :
    isNaN 0x7FC00000#32 = true ∧
    (isFinite 0x416FFFFF#32 = true ∧ (14 : Int) * 2 ^ 149 ≤ unitsInt 0x416FFFFF#32 ∧
      unitsInt 0x416FFFFF#32 < ((14 : Int) + 1) * 2 ^ 149 ∧ ((15 : Int) - 1) * 2 ^ 149 < unitsInt 0x416FFFFF#32 ∧
      unitsInt 0x416FFFFF#32 ≤ (15 : Int) * 2 ^ 149) ∧
    (isFinite 0x41700000#32 = true ∧ (15 : Int) * 2 ^ 149 ≤ unitsInt 0x41700000#32 ∧
      unitsInt 0x41700000#32 < ((15 : Int) + 1) * 2 ^ 149 ∧ ((15 : Int) - 1) * 2 ^ 149 < unitsInt 0x41700000#32 ∧
      unitsInt 0x41700000#32 ≤ (15 : Int) * 2 ^ 149) ∧
    (isFinite 0xBF000000#32 = true ∧ (-1 : Int) * 2 ^ 149 ≤ unitsInt 0xBF000000#32 ∧
      unitsInt 0xBF000000#32 < ((-1 : Int) + 1) * 2 ^ 149 ∧ ((0 : Int) - 1) * 2 ^ 149 < unitsInt 0xBF000000#32 ∧
      unitsInt 0xBF000000#32 ≤ (0 : Int) * 2 ^ 149) := by decide

/-- The point of Q1 with every element written, for each store. -/
def sampleReady : StoreName → State
  | .bufA => pointQ1 cellsQ1 [] []
  | .bufB => pointQ1 [] cellsQ1 []
  | .fbuf => pointQ1 [] [] ((gridElements [7, 8] [3, 4] [10, 11]).map fun e => (e, 0))

/-- The element of a corner in `sampleReady`: the cell of Q1 has the indices 7, 8 on X, 3, 4 on Y and 10, 11 on Z. -/
def readyIndex (c : Fin 8) (ch : Fin 4) : Nat :=
  (((if c.val.testBit 2 then 11 else 10) * 16 + (if c.val.testBit 1 then 4 else 3)) * 16 +
    (if c.val.testBit 0 then 8 else 7)) * 4 + ch.val

/-- The corner values of the channels in `sampleReady`. -/
def readyValues (st : StoreName) (ch : Fin 4) : Vector Word 8 :=
  Vector.ofFn fun c => ((sampleReady st).element byteConv st (readyIndex c ch)).getD 0

set_option maxRecDepth 100000 in
/-- Every element has been written: `SAMPLE A`, `SAMPLE B` and `SAMPLE F` at the interior point of Q1, whose scaled
coordinates 7.5, 3.75 and 10.5 have the indices in `readyIndex`. -/
theorem witness_SampleCompletes :
    ((Instr.sampleA = .sampleA ∧ StoreName.bufA = .bufA) ∧ ∀ (ch : Fin 4) (c : Fin 8),
      (sampleReady .bufA).element byteConv .bufA (readyIndex c ch) = some ((readyValues .bufA ch)[c])) ∧
    ((Instr.sampleB = .sampleB ∧ StoreName.bufB = .bufB) ∧ ∀ (ch : Fin 4) (c : Fin 8),
      (sampleReady .bufB).element byteConv .bufB (readyIndex c ch) = some ((readyValues .bufB ch)[c])) ∧
    ((Instr.sampleF = .sampleF ∧ StoreName.fbuf = .fbuf) ∧ ∀ (ch : Fin 4) (c : Fin 8),
      (sampleReady .fbuf).element byteConv .fbuf (readyIndex c ch) = some ((readyValues .fbuf ch)[c])) ∧
    (∀ st, (sampleReady st).readX 14 = 0x3F000000 ∧ (sampleReady st).readX 15 = 0x3E800000 ∧
      (sampleReady st).readX 16 = 0x3F333333) ∧
    (mulValue 0x3F000000 0x41700000 = some 0x40F00000 ∧ lowerIndex 0x40F00000 = 7 ∧ upperIndex 0x40F00000 = 8) ∧
    (mulValue 0x3E800000 0x41700000 = some 0x40700000 ∧ lowerIndex 0x40700000 = 3 ∧ upperIndex 0x40700000 = 4) ∧
    (mulValue 0x3F333333 0x41700000 = some 0x41280000 ∧ lowerIndex 0x41280000 = 10 ∧ upperIndex 0x41280000 = 11) :=
  ⟨⟨⟨rfl, rfl⟩, by decide⟩, ⟨⟨rfl, rfl⟩, by decide⟩, ⟨⟨rfl, rfl⟩, by decide⟩,
    fun st => by cases st <;> decide, by decide, by decide, by decide⟩

/-- A point on a grid plane of one axis (0, x; 1, y; 2, z), the others between planes, in a table that holds what is
read. -/
def planeState (axis : Nat) : State :=
  let p : Nat → Word := fun k => if k = axis then 0x3F800000 else 0x3F000000
  let c : Nat → List Nat := fun k => if k = axis then [15] else [7, 8]
  sampleState false (p 0) (p 1) (p 2) (gradCells (c 0) (c 1) (c 2)) [] []

set_option maxRecDepth 100000 in
/-- One state for each axis on a plane, the upper edge of the volume. -/
theorem witness_SampleDegenerateAllNaN :
    ((planeState 0).degenL = false ∧ (planeState 0).gridCell.x0 = (planeState 0).gridCell.x1 ∧
      ∃ t, sampleStore byteConv .bufA (planeState 0) = .next t ∧ t.busy = false) ∧
    ((planeState 1).degenL = false ∧ (planeState 1).gridCell.y0 = (planeState 1).gridCell.y1 ∧
      ∃ t, sampleStore byteConv .bufA (planeState 1) = .next t ∧ t.busy = false) ∧
    ((planeState 2).degenL = false ∧ (planeState 2).gridCell.z0 = (planeState 2).gridCell.z1 ∧
      ∃ t, sampleStore byteConv .bufA (planeState 2) = .next t ∧ t.busy = false) :=
  ⟨⟨by decide, by decide, exists_of_after (by decide)⟩, ⟨by decide, by decide, exists_of_after (by decide)⟩,
    ⟨by decide, by decide, exists_of_after (by decide)⟩⟩

/-- The last node of the grid in bypass mode. -/
def nodeState : State := sampleState true 0x3F800000 0x3F800000 0x3F800000 [] [] [(16380, 1), (16381, 2), (16382, 3), (16383, 4)]

set_option maxRecDepth 100000 in
theorem witness_SampleNodeBypassIsStoredSample :
    nodeState.degenL = true ∧ nodeState.gridCell.x0 = nodeState.gridCell.x1 ∧
    nodeState.gridCell.y0 = nodeState.gridCell.y1 ∧ nodeState.gridCell.z0 = nodeState.gridCell.z1 ∧
    (∀ ch : Fin 4, nodeState.element byteConv .fbuf
      (((nodeState.gridCell.z0 * 16 + nodeState.gridCell.y0) * 16 + nodeState.gridCell.x0) * 4 + ch.val) =
        some (BitVec.ofNat 32 (ch.val + 1))) := by decide

/-- Another state with the same point, mode, seed and elements, and another register. -/
def nodeState2 : State := nodeState.writeX 0 7

set_option maxRecDepth 100000 in
theorem witness_SampleDependsOnItsElementsOnly :
    nodeState2.readX 14 = nodeState.readX 14 ∧ nodeState2.readX 15 = nodeState.readX 15 ∧
    nodeState2.readX 16 = nodeState.readX 16 ∧ nodeState2.degenL = nodeState.degenL ∧
    nodeState2.nanSeed = nodeState.nanSeed ∧
    (∀ (c : Fin 8) (ch : Fin 4), nodeState2.element byteConv .fbuf (cornerElement nodeState.gridCell c ch.val) =
      nodeState.element byteConv .fbuf (cornerElement nodeState.gridCell c ch.val)) ∧
    ∃ t, sampleStore byteConv .fbuf nodeState = .next t ∧ t.busy = false :=
  ⟨by decide, by decide, by decide, by decide, by decide, fun _ _ => rfl, exists_of_after (by decide)⟩

set_option maxRecDepth 100000 in
/-- The last corner and channel of a table without its last element, and a state after reset. -/
theorem witness_SampleOfUnwrittenIsRefused :
    (pointQ1 (cellsQ1.take 31) [] []).element byteConv .bufA
      (cornerElement (pointQ1 (cellsQ1.take 31) [] []).gridCell 7 3) = none ∧
    State.reset.element byteConv .bufB (cornerElement State.reset.gridCell 0 0) = none ∧
    State.reset.element byteConv .fbuf (cornerElement State.reset.gridCell 0 0) = none := by decide

theorem witness_TiledIsBijection :
    tiledOffset 15 15 15 = tiledOffset 15 15 15 ∧ (0x3FFC#14).toNat % 4 = 0 := by decide

theorem witness_IncrementIsNextDeposit :
    (0x1E00#14 = 0x012C#14 ∨ 0x1E00#14 = 0x20D0#14 ∨ 0x1E00#14 = 0x1E00#14) := by decide

/-- The last byte of a sample and the bytes on either side of the tiled offset of the last sample but three. -/
theorem witness_WalkStepCompletes : 3 < 4 ∧ (8699 < 8700 ∨ 8700 + 4 ≤ 8699) ∧ (8704 < 8700 ∨ 8700 + 4 ≤ 8704) := by decide

/-- With `BUFA` holding two bytes and no event. -/
def walkable : State := { State.reset with bufA := [(60, 1), (16383, 2)] }

theorem witness_SwizzleNetEffect : walkable.events = [] ∧ 3 < 4 := by decide
theorem witness_DeswizzleNetEffect : walkable.events = [] ∧ 3 < 4 := by decide
theorem witness_SwizzleRoundTrip : walkable.events = [] ∧ 16383 < 16384 := by decide

/-- A next state, and a refusal. -/
theorem witness_CtrlWriteDoesNotReachTheCommand :
    (∃ t, exec .trilin State.reset = .next t) ∧ exec .sampleA State.reset = .refused (.unwritten .bufA) := by
  refine ⟨⟨_, rfl⟩, ?_⟩
  rw [show exec .sampleA State.reset = sampleStore byteConv .bufA State.reset from rfl, sampleStore_refused]
  refine ⟨?_, rfl⟩
  rfl

theorem witness_CommandsKeepControlAndErrors : ∃ t, exec .swzBA walkable = .next t := ⟨_, rfl⟩

/-- A command that finishes in this step, and one that does not. -/
theorem witness_BusyFallsAsDoneRises :
    ((accepted 1 []).busy = true ∧ (accepted 1 []).done = false ∧ ∃ t, exec .lin (accepted 1 []) = .next t ∧ t.busy = false) ∧
    ((accepted 8 []).busy = true ∧ (accepted 8 []).done = false ∧ ∃ t, exec .swzAB (accepted 8 []) = .next t ∧ t.busy = true) :=
  ⟨⟨rfl, rfl, _, rfl, rfl⟩, ⟨rfl, rfl, _, rfl, rfl⟩⟩

/-- A command just accepted after reset has the invariant. -/
theorem accepted_inv {w : Word} {i : Instr} (es : List Event) (h : decode w = .ok i) : (accepted w es).Inv where
  bufA_wf := rfl
  bufB_wf := rfl
  fbuf_wf := rfl
  cur_legal := fun _ => ⟨i, h⟩
  done_idle := fun _ => rfl
  err_code := rfl
  walk_idle := fun _ => rfl
  offX_eq := show (0 : Offset) = pdep ((0 : BitVec 12).extractLsb' 0 4) xMask by decide
  offY_eq := show (0 : Offset) = pdep ((0 : BitVec 12).extractLsb' 4 4) yMask by decide
  offZ_eq := show (0 : Offset) = pdep ((0 : BitVec 12).extractLsb' 8 4) zMask by decide

/-- A swizzle, which takes all 4096 steps; a scalar command, which takes one; a `SAMPLE` of an unwritten store. -/
theorem witness_CommandsTerminate :
    ((accepted 0x19 []).Inv ∧ (accepted 0x19 []).busy = true ∧ (accepted 0x19 []).events = []) ∧
    ((accepted 3 []).Inv ∧ (accepted 3 []).busy = true ∧ (accepted 3 []).events = []) ∧
    ((accepted 0x24 []).Inv ∧ (accepted 0x24 []).busy = true ∧ (accepted 0x24 []).events = []) :=
  ⟨⟨accepted_inv (i := .dswzBA) [] rfl, rfl, rfl⟩, ⟨accepted_inv (i := .trilin) [] rfl, rfl, rfl⟩,
    ⟨accepted_inv (i := .sampleF) [] rfl, rfl, rfl⟩⟩

/-- Both ends of every range of 60_exceptions.md R185. -/
theorem witness_BusErrorCausesInOrder :
    [HostTxn.read4 0x07FFC, .read4 0x08000, .read1 0x0FFFF, .read4 0x10000, .read1 0x1FFFF, .read4 0x2000E, .read4 0x20010,
      .read4 0x2003F, .read4 0x20040, .read1 0x20093, .read4 0x20094, .read1 0x3FFFF, .write4 0x20000 0, .read4 0x2000C].map
      (causeOf · false)
    = [none, some .unmapped, some .unmapped, none, some .width, some .misaligned, some .unmapped, some .unmapped, none,
      some .width, some .unmapped, some .unmapped, some .direction, some .direction] ∧
    [HostTxn.read4 0x1FFFC, .read4 0x20000, .read4 0x20008, .write4 0x2000C 1, .read4 0x20040].map (causeOf · true)
    = [some .busy, none, none, some .busy, some .busy] := by decide

/-- A state with some events and nothing else since reset. -/
def hosted (es : List Event) : State := { State.reset with events := es }

theorem witness_BusErrorChangesNothing :
    (hosted [.host (.read4 0x3FFFC)]).events = .host (.read4 0x3FFFC) :: [] ∧
    checkTxn (.read4 0x3FFFC) (hosted [.host (.read4 0x3FFFC)]).busy = .error .unmapped := ⟨rfl, rfl⟩

/-- The last address below `ID` and the first above `STATUS`. -/
theorem witness_BusyLocksOutTheHost :
    ((accepted 8 [.host (.write4 0x1FFFF 0)]).busy = true ∧
      (accepted 8 [.host (.write4 0x1FFFF 0)]).events = .host (.write4 0x1FFFF 0) :: [] ∧
      ((HostTxn.write4 0x1FFFF 0).addr.toNat < 0x20000 ∨ 0x2000C ≤ (HostTxn.write4 0x1FFFF 0).addr.toNat)) ∧
    ((accepted 8 [.host (.write4 0x2000C 1)]).busy = true ∧
      (accepted 8 [.host (.write4 0x2000C 1)]).events = .host (.write4 0x2000C 1) :: [] ∧
      ((HostTxn.write4 0x2000C 1).addr.toNat < 0x20000 ∨ 0x2000C ≤ (HostTxn.write4 0x2000C 1).addr.toNat)) ∧
    (0x20000 ≤ (HostTxn.read4 0x20000).addr.toNat ∧ (HostTxn.read4 0x20000).addr.toNat < 0x2000C) ∧
    (0x20000 ≤ (HostTxn.read1 0x2000B).addr.toNat ∧ (HostTxn.read1 0x2000B).addr.toNat < 0x2000C) :=
  ⟨⟨rfl, rfl, by decide⟩, ⟨rfl, rfl, by decide⟩, by decide, by decide⟩

theorem witness_ControlReadsAnswer :
    (hosted [rd4 addrId]).events = .host (.read4 0x20000#18) :: [] ∧
    (hosted [rd4 addrCtrl]).events = .host (.read4 0x20004#18) :: [] ∧
    (accepted 8 [rd4 addrStatus]).events = .host (.read4 0x20008#18) :: [] := ⟨rfl, rfl, rfl⟩

theorem witness_CtrlWriteThenRead :
    (accepted 8 [wr4 addrCtrl 0xFFFFFFFF, rd4 addrCtrl]).events =
      .host (.write4 0x20004#18 0xFFFFFFFF) :: .host (.read4 0x20004#18) :: [] := rfl

theorem witness_StatusWriteOneToClear : (hosted [clr]).events = .host (.write4 0x20008#18 6) :: [] := rfl

/-- A word of each error code, the last in a state that already holds an error. -/
theorem witness_IllegalWordRecordsFirstError :
    ((hosted [rawWord 0xF]).events = .host (.write4 0x2000C#18 0xF) :: [] ∧ (hosted [rawWord 0xF]).busy = false ∧
      decode 0xF = .error .illegalOpcode) ∧
    ((hosted [rawWord 0x41]).events = .host (.write4 0x2000C#18 0x41) :: [] ∧ decode 0x41 = .error .reservedBits) ∧
    (((hosted [rawWord 0x34]).raiseCmdError .illegalOpcode).events = .host (.write4 0x2000C#18 0x34) :: [] ∧
      ((hosted [rawWord 0x34]).raiseCmdError .illegalOpcode).busy = false ∧ decode 0x34 = .error .reservedSel) :=
  ⟨⟨rfl, rfl, rfl⟩, ⟨rfl, rfl⟩, rfl, rfl, rfl⟩

theorem witness_LegalWordIsAccepted :
    (hosted [command .dswzBA]).events = .host (.write4 0x2000C#18 0x19) :: [] ∧ (hosted [command .dswzBA]).busy = false ∧
    decode 0x19 = .ok .dswzBA := ⟨rfl, rfl, rfl⟩

/-- The last register. -/
theorem witness_OperandRegisterHoldsRawBits :
    (hosted [wr4 (addrX 20) 5, rd4 (addrX 20)]).busy = false ∧
    (hosted [wr4 (addrX 20) 5, rd4 (addrX 20)]).events =
      .host (.write4 (BitVec.ofNat 18 (0x20040 + 4 * (20 : Fin 21).val)) 5) ::
        .host (.read4 (BitVec.ofNat 18 (0x20040 + 4 * (20 : Fin 21).val))) :: [] := ⟨rfl, rfl⟩

/-- The last element. -/
theorem witness_FbufElementHoldsItsWord :
    16383 < 16384 ∧ (hosted [wr4 (addrFbuf 16383) 5, rd4 (addrFbuf 16383)]).busy = false ∧
    (hosted [wr4 (addrFbuf 16383) 5, rd4 (addrFbuf 16383)]).events =
      .host (.write4 (BitVec.ofNat 18 (0x10000 + 4 * 16383)) 5) ::
        .host (.read4 (BitVec.ofNat 18 (0x10000 + 4 * 16383))) :: [] := ⟨by decide, rfl, rfl⟩

/-- The host address of an offset of a byte store, as the obligation writes it. -/
def storeAddr (b : Bool) (off : Nat) : HostAddr := BitVec.ofNat 18 ((if b then 0x4000 else 0) + off)

/-- The last word of each byte store, written by word and by byte, and its last byte. -/
theorem witness_WordWriteIsLittleEndian :
    (16380 % 4 = 0 ∧ 16380 < 16384 ∧ 3 < 4 ∧ 16383 < 16384) ∧
    ((hosted [wr4 (addrBufA 16380) 5, rd1 (addrBufA 16383), rd4 (addrBufA 16380)]).busy = false ∧
      (hosted [wr4 (addrBufA 16380) 5, rd1 (addrBufA 16383), rd4 (addrBufA 16380)]).events =
        .host (.write4 (storeAddr false 16380) 5) :: .host (.read1 (storeAddr false (16380 + 3))) ::
          .host (.read4 (storeAddr false 16380)) :: []) ∧
    ((hosted [wr4 (addrBufB 16380) 5, rd1 (addrBufB 16383), rd4 (addrBufB 16380)]).busy = false ∧
      (hosted [wr4 (addrBufB 16380) 5, rd1 (addrBufB 16383), rd4 (addrBufB 16380)]).events =
        .host (.write4 (storeAddr true 16380) 5) :: .host (.read1 (storeAddr true (16380 + 3))) ::
          .host (.read4 (storeAddr true 16380)) :: []) ∧
    ((hosted [wr1 (addrBufB 16383) 5, rd1 (addrBufB 16383)]).busy = false ∧
      (hosted [wr1 (addrBufB 16383) 5, rd1 (addrBufB 16383)]).events =
        .host (.write1 (storeAddr true 16383) 5) :: .host (.read1 (storeAddr true 16383)) :: []) ∧
    ((hosted [wr1 (addrBufA 16380) 1, wr1 (addrBufA 16381) 2, wr1 (addrBufA 16382) 3, wr1 (addrBufA 16383) 4,
        rd4 (addrBufA 16380)]).busy = false ∧
      (hosted [wr1 (addrBufA 16380) 1, wr1 (addrBufA 16381) 2, wr1 (addrBufA 16382) 3, wr1 (addrBufA 16383) 4,
        rd4 (addrBufA 16380)]).events =
        .host (.write1 (storeAddr false 16380) 1) :: .host (.write1 (storeAddr false (16380 + 1)) 2) ::
          .host (.write1 (storeAddr false (16380 + 2)) 3) :: .host (.write1 (storeAddr false (16380 + 3)) 4) ::
          .host (.read4 (storeAddr false 16380)) :: []) :=
  ⟨by decide, ⟨rfl, rfl⟩, ⟨rfl, rfl⟩, ⟨rfl, rfl⟩, rfl, rfl⟩

/-- The last cell of each store, and a word whose last byte alone has no value. -/
theorem witness_HostReadOfUnwrittenIsRefused :
    16383 < 16384 ∧
    ((hosted [rd1 (addrBufA 16383)]).events = .host (.read1 (BitVec.ofNat 18 16383)) :: [] ∧
      (hosted [rd1 (addrBufA 16383)]).busy = false ∧ Memory.read (hosted [rd1 (addrBufA 16383)]).bufA 16383 = none) ∧
    ((hosted [rd1 (addrBufB 16383)]).events = .host (.read1 (BitVec.ofNat 18 (0x4000 + 16383))) :: [] ∧
      Memory.read (hosted [rd1 (addrBufB 16383)]).bufB 16383 = none) ∧
    ((hosted [rd4 (addrFbuf 16383)]).events = .host (.read4 (BitVec.ofNat 18 (0x10000 + 4 * 16383))) :: [] ∧
      Memory.read (hosted [rd4 (addrFbuf 16383)]).fbuf 16383 = none) ∧
    (3 < 4 ∧ 16380 % 4 = 0 ∧
      ({ hosted [rd4 (addrBufA 16380)] with bufA := [(16380, 0), (16381, 0), (16382, 0)] }).events =
        .host (.read4 (BitVec.ofNat 18 16380)) :: [] ∧
      Memory.read ({ hosted [rd4 (addrBufA 16380)] with bufA := [(16380, 0), (16381, 0), (16382, 0)] }).bufA (16380 + 3) = none) ∧
    ((hosted [rd4 (addrBufB 16380)]).events = .host (.read4 (BitVec.ofNat 18 (0x4000 + 16380))) :: [] ∧
      Memory.read (hosted [rd4 (addrBufB 16380)]).bufB (16380 + 3) = none) :=
  ⟨by decide, ⟨rfl, rfl, rfl⟩, ⟨rfl, rfl⟩, ⟨rfl, rfl⟩, ⟨by decide, by decide, rfl, rfl⟩, rfl, rfl⟩

theorem witness_ResetInputAbandonsTheCommand : (accepted 8 [.rst]).events = .rst :: [] := rfl

/-- A step of the unit and a step of the host, each from a state with the invariant. -/
theorem witness_StepKeepsInv :
    ((accepted 8 []).Inv ∧ ∃ t, step (accepted 8 []) = .next t) ∧
    ((accepted 1 [clr]).Inv ∧ ∃ t, step (accepted 1 [clr]) = .next t) :=
  ⟨⟨accepted_inv (i := .swzAB) [] rfl, _, rfl⟩, accepted_inv (i := .lin) [clr] rfl, _, rfl⟩

theorem witness_InvStatesNeverFault : (accepted 0x14 [.unit, clr, .rst]).Inv := accepted_inv (i := .sampleB) _ rfl

end Sys2Proof.Machine.Tests
end

/-! The busy lock-out of the host port (20_memory.md R67): which addresses it covers, and what it answers. -/

namespace Sys2Proof.Machine

/-- The address map read from the lock's side: what stays accessible is exactly the words of `ID`, `CTRL` and `STATUS`
(20_memory.md R62, R67). -/
theorem locked_eq_false_iff_of_targetOf {a : HostAddr} {g : Target} (h : targetOf a = some g) :
    g.locked = false ↔ 0x20000 ≤ a.toNat ∧ a.toNat < 0x2000C := by
  unfold targetOf at h
  dsimp only at h
  split_ifs at h <;> cases h -- one case per mapped row of R62, the bounds of its addresses in the context
  all_goals
    simp only [Target.locked, Bool.true_eq_false, false_iff, true_iff]
    omega

/-- No check of a target that is not locked looks at `BUSY` (20_memory.md R68). -/
theorem checkTxn_eq_of_not_locked {t : HostTxn} (h : ∀ g, targetOf t.addr = some g → g.locked = false)
    (b c : Bool) : checkTxn t b = checkTxn t c := by
  unfold checkTxn
  cases hg : targetOf t.addr with
  | none => rfl
  | some g => simp [h g hg]

/-- Outside the words of `ID`, `CTRL` and `STATUS` some check fails while `BUSY = 1`: a transaction that passed them
all would have a target that is not locked. -/
theorem checkTxn_busy_error {t : HostTxn} (ha : ¬(0x20000 ≤ t.addr.toNat ∧ t.addr.toNat < 0x2000C)) :
    ∃ c, checkTxn t true = .error c := by
  cases hc : checkTxn t true with
  | error c => exact ⟨c, rfl⟩
  | ok g =>
    obtain ⟨hg, -, -, -, hlock⟩ := checkTxn_ok hc
    have hfree : g.locked = false := by simpa using hlock
    exact absurd ((locked_eq_false_iff_of_targetOf hg).1 hfree) ha

/-- The host's turn with a transaction that fails a check: the answer, and nothing else (60_exceptions.md R186). -/
theorem step_host_of_checkTxn_error {s : State} {t : HostTxn} {es : List Event} {c : BusCause}
    (he : s.events = .host t :: es) (hc : checkTxn t s.busy = .error c) :
    step s = .next ((s.withEvents es).respond .busError) := by
  have hc' : checkTxn t (s.withEvents es).busy = .error c := hc
  simp only [step, he, hostStep, hc']

/-- Settles O45: while busy, some check fails at every address outside the three words (any failure answers alike), and
inside them no check reads `BUSY`. -/
theorem busyLocksOutTheHost : Obligations.BusyLocksOutTheHost := by
  refine ⟨fun s t es hbusy he haddr => ?_, fun t hlo hhi => ?_⟩
  · obtain ⟨c, hc⟩ := checkTxn_busy_error (t := t) (by omega)
    exact step_host_of_checkTxn_error he (hbusy ▸ hc)
  · exact checkTxn_eq_of_not_locked (fun g hg => (locked_eq_false_iff_of_targetOf hg).2 ⟨hlo, hhi⟩) true false

end Sys2Proof.Machine

/-! The decoder and the encoder: the fields of a word, the words that decode, and the order of the checks of a submitted
word (30_encoding.md R91 to R94, R100). -/

namespace Sys2Proof

/-! ### The fields of a word (30_encoding.md R91) -/

theorem Fields.ofWord_opc_toNat (w : Word) : (Fields.ofWord w).opc.toNat = w.toNat % 16 := by
  simp [Fields.ofWord]

theorem Fields.ofWord_sel_toNat (w : Word) : (Fields.ofWord w).sel.toNat = w.toNat / 16 % 4 := by
  simp [Fields.ofWord, Nat.shiftRight_eq_div_pow]

theorem Fields.ofWord_zero_toNat (w : Word) : (Fields.ofWord w).zero.toNat = w.toNat / 64 := by
  have hw := w.isLt
  simp only [Fields.ofWord, BitVec.extractLsb'_toNat, Nat.shiftRight_eq_div_pow]
  omega

theorem Fields.toWord_toNat (f : Fields) :
    f.toWord.toNat = f.zero.toNat * 64 + f.sel.toNat * 16 + f.opc.toNat := by
  simp only [Fields.toWord, BitVec.toNat_append]
  rw [← Nat.shiftLeft_add_eq_or_of_lt f.opc.isLt, ← Nat.shiftLeft_add_eq_or_of_lt f.sel.isLt]
  omega

theorem Fields.eq_of_toNat_eq {f g : Fields} (hzero : f.zero.toNat = g.zero.toNat)
    (hsel : f.sel.toNat = g.sel.toNat) (hopc : f.opc.toNat = g.opc.toNat) : f = g := by
  cases f
  cases g
  simp only [Fields.mk.injEq, BitVec.toNat_eq]
  exact ⟨hzero, hsel, hopc⟩

/-- No bit of a word lies outside its three fields. -/
@[simp] theorem Fields.toWord_ofWord (w : Word) : (Fields.ofWord w).toWord = w := by
  apply BitVec.eq_of_toNat_eq
  rw [Fields.toWord_toNat, Fields.ofWord_zero_toNat, Fields.ofWord_sel_toNat, Fields.ofWord_opc_toNat]
  omega

/-- No two fields of a word overlap. -/
@[simp] theorem Fields.ofWord_toWord (f : Fields) : Fields.ofWord f.toWord = f := by
  have hsel := f.sel.isLt
  have hopc := f.opc.isLt
  apply Fields.eq_of_toNat_eq
  · rw [Fields.ofWord_zero_toNat, Fields.toWord_toNat]
    omega
  · rw [Fields.ofWord_sel_toNat, Fields.toWord_toNat]
    omega
  · rw [Fields.ofWord_opc_toNat, Fields.toWord_toNat]
    omega

theorem Fields.ofWord_eq_iff (w : Word) (f : Fields) : Fields.ofWord w = f ↔ w = f.toWord :=
  ⟨fun h => by rw [← h, Fields.toWord_ofWord], fun h => by rw [h, Fields.ofWord_toWord]⟩

/-! ### The command that an opcode and a selector name (30_encoding.md R92, R93) -/

theorem opcodeKnown_iff (opc : BitVec 4) :
    opcodeKnown opc = true ↔ opc.toNat = 1 ∨ opc.toNat = 2 ∨ opc.toNat = 3 ∨ opc.toNat = 4 ∨ opc.toNat = 8 ∨
      opc.toNat = 9 := by
  simp [opcodeKnown, BitVec.toNat_eq]

/-- `commandOf` inverts `Instr.fields`. -/
theorem commandOf_eq_some_iff (opc : BitVec 4) (sel : BitVec 2) (i : Instr) :
    commandOf opc sel = some i ↔ opc = i.fields.opc ∧ sel = i.fields.sel := by
  cases i <;> revert opc sel <;> decide

/-- The reserved selectors of each known opcode (30_encoding.md R93). -/
theorem commandOf_eq_none_iff : ∀ (opc : BitVec 4) (sel : BitVec 2), opcodeKnown opc = true →
    (commandOf opc sel = none ↔ ((opc.toNat = 1 ∨ opc.toNat = 2 ∨ opc.toNat = 3) ∧ sel.toNat ≠ 0) ∨
      (opc.toNat = 4 ∧ sel.toNat = 3) ∨ ((opc.toNat = 8 ∨ opc.toNat = 9) ∧ 2 ≤ sel.toNat)) := by
  decide

@[simp] theorem Instr.fields_zero (i : Instr) : i.fields.zero = 0 := by cases i <;> rfl

@[simp] theorem Instr.opcodeKnown_fields_opc (i : Instr) : opcodeKnown i.fields.opc = true := by cases i <;> rfl

/-! ### The outcomes of the checks, in their order (30_encoding.md R94) -/

section
variable {w : Word}

theorem decode_of_unknown_opcode (hopc : opcodeKnown (Fields.ofWord w).opc = false) :
    decode w = .error .illegalOpcode := by
  simp [decode, hopc]

theorem decode_of_reserved_bits (hopc : opcodeKnown (Fields.ofWord w).opc = true) (hzero : (Fields.ofWord w).zero ≠ 0) :
    decode w = .error .reservedBits := by
  simp only [decode, hopc, Bool.true_eq_false, if_false, if_pos hzero]

theorem decode_of_reserved_sel (hopc : opcodeKnown (Fields.ofWord w).opc = true) (hzero : (Fields.ofWord w).zero = 0)
    (hcmd : commandOf (Fields.ofWord w).opc (Fields.ofWord w).sel = none) : decode w = .error .reservedSel := by
  simp [decode, hopc, hzero, hcmd]

theorem decode_of_command {i : Instr} (hopc : opcodeKnown (Fields.ofWord w).opc = true)
    (hzero : (Fields.ofWord w).zero = 0) (hcmd : commandOf (Fields.ofWord w).opc (Fields.ofWord w).sel = some i) :
    decode w = .ok i := by
  simp [decode, hopc, hzero, hcmd]

end

/-! ### The words that decode (30_encoding.md R100) -/

theorem decode_encode (i : Instr) : decode (encode i) = .ok i := by
  have hf : Fields.ofWord (encode i) = i.fields := Fields.ofWord_toWord _
  apply decode_of_command <;> simp [hf, commandOf_eq_some_iff]

theorem eq_encode_of_decode {w : Word} {i : Instr} (h : decode w = .ok i) : w = encode i := by
  refine (Fields.ofWord_eq_iff w i.fields).1 ?_
  cases hopc : opcodeKnown (Fields.ofWord w).opc with
  | false => simp [decode_of_unknown_opcode hopc] at h
  | true =>
    by_cases hzero : (Fields.ofWord w).zero = 0
    · cases hcmd : commandOf (Fields.ofWord w).opc (Fields.ofWord w).sel with
      | none => simp [decode_of_reserved_sel hopc hzero hcmd] at h
      | some j =>
        obtain rfl : j = i := by simpa [decode_of_command hopc hzero hcmd] using h
        obtain ⟨ho, hs⟩ := (commandOf_eq_some_iff _ _ j).1 hcmd
        exact Fields.eq_of_toNat_eq (by simp [hzero]) (by rw [hs]) (by rw [ho])
    · simp [decode_of_reserved_bits hopc hzero] at h

/-- Decoding inverts encoding, on every word: the word of an instruction decodes to it, and no other word does. -/
theorem decode_eq_ok_iff (w : Word) (i : Instr) : decode w = .ok i ↔ w = encode i :=
  ⟨eq_encode_of_decode, fun h => h ▸ decode_encode i⟩

/-- Settles O1: the table of R100 lists the word of each instruction. -/
theorem decodeExactlyTheTenWords : Obligations.DecodeExactlyTheTenWords := by
  intro w i
  rw [decode_eq_ok_iff]
  cases i <;> simp [encode, Fields.toWord, Instr.fields]

end Sys2Proof

namespace Sys2Proof.Machine

/-! ### Submitting a word (10_state.md R35, 30_encoding.md R94) -/

theorem State.submit_of_decode_ok (s : State) {w : Word} {i : Instr} (h : decode w = .ok i) :
    s.submit w = s.accept w := by
  simp [State.submit, h]

theorem State.submit_of_decode_error (s : State) {w : Word} {e : CmdError} (h : decode w = .error e) :
    s.submit w = s.raiseCmdError e := by
  simp [State.submit, h]

/-- Settles O5: each clause is one outcome of the decoder's checks, its conditions read as conditions on the fields. -/
theorem submitFollowsDecodeOrder : Obligations.SubmitFollowsDecodeOrder := by
  refine ⟨⟨rfl, rfl, rfl⟩, fun s w => ?_⟩
  dsimp only
  rw [← Fields.ofWord_opc_toNat, ← Fields.ofWord_sel_toNat, ← Fields.ofWord_zero_toNat, ← opcodeKnown_iff]
  have hzero : (Fields.ofWord w).zero.toNat = 0 ↔ (Fields.ofWord w).zero = 0 := BitVec.toNat_inj (y := 0)
  refine ⟨fun hopc => ?_, fun hopc hhigh => ?_, fun hopc hhigh hsel => ?_, fun hopc hhigh hsel => ?_⟩
  · exact s.submit_of_decode_error (decode_of_unknown_opcode (Bool.eq_false_of_not_eq_true hopc))
  · exact s.submit_of_decode_error (decode_of_reserved_bits hopc (mt hzero.2 hhigh))
  · have hcmd := (commandOf_eq_none_iff _ _ hopc).2 hsel
    exact s.submit_of_decode_error (decode_of_reserved_sel hopc (hzero.1 hhigh) hcmd)
  · obtain ⟨i, hcmd⟩ := Option.ne_none_iff_exists'.1 (mt (commandOf_eq_none_iff _ _ hopc).1 hsel)
    exact s.submit_of_decode_ok (decode_of_command hopc (hzero.1 hhigh) hcmd)

end Sys2Proof.Machine

/-! What `⊕`, `⊖`, `⊗` and `⊘` deliver for each kind of operand, the sign of a product or quotient, and which results are
NaNs (40_interpolate.md R121 to R123). -/

namespace Sys2Proof.Machine

/-! ### The kinds of operand exclude each other (40_interpolate.md R120) -/

theorem isZero_of_inf {a : Word} (h : isInf a = true) : isZero a = false := by
  cases hz : isZero a with
  | false => rfl
  | true => simp [isInf_of_finite (isFinite_of_zero hz)] at h

theorem isZero_of_nan {a : Word} (h : isNaN a = true) : isZero a = false := by
  cases hz : isZero a with
  | false => rfl
  | true => simp [isNaN_of_finite (isFinite_of_zero hz)] at h

theorem unitsInt_of_zero {a : Word} (h : isZero a = true) : unitsInt a = 0 := by
  rcases (isZero_iff a).1 h with rfl | rfl <;> decide

theorem signBit_packBits_roundUnits (neg : Bool) (n d : Nat) : signBit (packBits neg (roundUnits n d)) = neg :=
  signBit_packBits _ _ (lt_of_le_of_lt (roundUnits_le n d) (by decide))

section
variable {a b : Word}

/-! ### Sums -/

theorem addValue_of_finite (ha : isFinite a = true) (hb : isFinite b = true) :
    addValue a b = some (addFinite a b) := by
  simp [addValue, isNaN_of_finite ha, isNaN_of_finite hb, isInf_of_finite ha, isInf_of_finite hb]

theorem addValue_of_inf_finite (ha : isInf a = true) (hb : isFinite b = true) : addValue a b = some a := by
  simp [addValue, isNaN_of_inf ha, isNaN_of_finite hb, ha, isInf_of_finite hb]

theorem addValue_of_finite_inf (ha : isFinite a = true) (hb : isInf b = true) : addValue a b = some b := by
  simp [addValue, isNaN_of_finite ha, isNaN_of_inf hb, isInf_of_finite ha, hb]

theorem addValue_of_inf_inf (ha : isInf a = true) (hb : isInf b = true) :
    addValue a b = if signBit a ≠ signBit b then none else some a := by
  simp [addValue, isNaN_of_inf ha, isNaN_of_inf hb, ha, hb]

/-- An exact zero sum is `+0` unless both operands are negative. -/
theorem addFinite_of_cancel (h : unitsInt a + unitsInt b = 0) : addFinite a b = zeroOf (signBit a && signBit b) := by
  simp [addFinite, h]

theorem fAdd_of_zeros (nan : NaNSource) (place : Nat) (ha : isZero a = true) (hb : isZero b = true) :
    fAdd nan place a b = zeroOf (signBit a && signBit b) := by
  have hsum : unitsInt a + unitsInt b = 0 := by rw [unitsInt_of_zero ha, unitsInt_of_zero hb, add_zero]
  rw [fAdd, addValue_of_finite (isFinite_of_zero ha) (isFinite_of_zero hb), deliver_some, addFinite_of_cancel hsum]

theorem fSub_self (nan : NaNSource) (place : Nat) (ha : isFinite a = true) :
    fSub nan place a a = zeroOf false := by
  have hneg : isFinite (negate a) = true := by rwa [isFinite_negate]
  have hsum : unitsInt a + unitsInt (negate a) = 0 := by rw [unitsInt_negate, Int.add_right_neg]
  rw [fSub, subValue, addValue_of_finite ha hneg, deliver_some, addFinite_of_cancel hsum, signBit_negate,
    Bool.and_not_self]

theorem fAdd_of_inf_finite (nan : NaNSource) (place : Nat) (ha : isInf a = true) (hb : isFinite b = true) :
    fAdd nan place a b = a := by
  rw [fAdd, addValue_of_inf_finite ha hb, deliver_some]

theorem fAdd_of_finite_inf (nan : NaNSource) (place : Nat) (ha : isFinite a = true) (hb : isInf b = true) :
    fAdd nan place a b = b := by
  rw [fAdd, addValue_of_finite_inf ha hb, deliver_some]

/-! ### Products -/

theorem mulValue_of_finite (ha : isFinite a = true) (hb : isFinite b = true) :
    mulValue a b =
      some (packBits (signBit a != signBit b) (roundUnits (magnitude a * magnitude b) (2 ^ 149))) := by
  simp [mulValue, isNaN_of_finite ha, isNaN_of_finite hb, isInf_of_finite ha, isInf_of_finite hb]

theorem mulValue_of_inf_zero (ha : isInf a = true) (hb : isZero b = true) : mulValue a b = none := by
  simp [mulValue, ha, hb]

theorem mulValue_of_zero_inf (ha : isZero a = true) (hb : isInf b = true) : mulValue a b = none := by
  simp [mulValue, ha, hb]

theorem mulValue_of_inf_finite (ha : isInf a = true) (hb : isFinite b = true) (hz : isZero b = false) :
    mulValue a b = some (infOf (signBit a != signBit b)) := by
  simp [mulValue, isNaN_of_inf ha, isNaN_of_finite hb, ha, isZero_of_inf ha, hz]

/-- The sign of every product that is a value, zero or not, is the XOR of the operands' signs. -/
theorem signBit_of_mulValue {v : Word} (h : mulValue a b = some v) : signBit v = (signBit a != signBit b) := by
  unfold mulValue at h
  dsimp only at h
  split_ifs at h <;> cases h -- what is left: an infinity, and the rounded product of two finite operands
  · exact signBit_infOf _
  · exact signBit_packBits_roundUnits _ _ _

/-! ### Quotients -/

theorem divValue_of_finite (ha : isFinite a = true) (hb : isFinite b = true) (hz : isZero b = false) :
    divValue a b =
      some (packBits (signBit a != signBit b) (roundUnits (magnitude a * 2 ^ 149) (magnitude b))) := by
  simp [divValue, isNaN_of_finite ha, isNaN_of_finite hb, isInf_of_finite ha, isInf_of_finite hb, hz]

theorem divValue_of_finite_zero (ha : isFinite a = true) (hz : isZero a = false) (hb : isZero b = true) :
    divValue a b = some (infOf (signBit a != signBit b)) := by
  have hb' := isFinite_of_zero hb
  simp [divValue, isNaN_of_finite ha, isNaN_of_finite hb', isInf_of_finite ha, isInf_of_finite hb', hz, hb]

theorem divValue_of_zeros (ha : isZero a = true) (hb : isZero b = true) : divValue a b = none := by
  simp [divValue, isInf_of_finite (isFinite_of_zero ha), isInf_of_finite (isFinite_of_zero hb), ha, hb]

theorem divValue_of_inf_inf (ha : isInf a = true) (hb : isInf b = true) : divValue a b = none := by
  simp [divValue, ha, hb]

theorem divValue_of_finite_inf (ha : isFinite a = true) (hb : isInf b = true) :
    divValue a b = some (zeroOf (signBit a != signBit b)) := by
  simp [divValue, isNaN_of_finite ha, isNaN_of_inf hb, isInf_of_finite ha, hb]

/-- The sign of every quotient that is a value, zero or not, is the XOR of the operands' signs. -/
theorem signBit_of_divValue {v : Word} (h : divValue a b = some v) : signBit v = (signBit a != signBit b) := by
  unfold divValue at h
  dsimp only at h
  split_ifs at h <;> cases h -- what is left: an infinite dividend or divisor, a zero divisor, the rounded quotient
  · exact signBit_infOf _
  · exact signBit_zeroOf _
  · exact signBit_infOf _
  · exact signBit_packBits_roundUnits _ _ _

end

/-! ### Delivered NaNs (40_interpolate.md R123) -/

section
variable (nan : NaNSource) (place : Nat) (a b : Word)

/-- A NaN result has no other source than the free bits: an operation's value is never one. -/
theorem isNaN_deliver {r : Option Word} (hr : ∀ v, r = some v → isNaN v = false) :
    isNaN (deliver nan place a b r) = r.isNone := by
  cases r with
  | none => exact isNaN_of_quiet (isQuietNaN_deliver_none nan place a b)
  | some v => exact hr v rfl

theorem isNaN_fAdd : isNaN (fAdd nan place a b) = (addValue a b).isNone :=
  isNaN_deliver nan place a b fun _ => addValue_not_nan

theorem isNaN_fSub : isNaN (fSub nan place a b) = (subValue a b).isNone :=
  isNaN_deliver nan place a b fun _ => subValue_not_nan

theorem isNaN_fMul : isNaN (fMul nan place a b) = (mulValue a b).isNone :=
  isNaN_deliver nan place a b fun _ => mulValue_not_nan

theorem isNaN_fDiv : isNaN (fDiv nan place a b) = (divValue a b).isNone :=
  isNaN_deliver nan place a b fun _ => divValue_not_nan

theorem isNaN_fAdd_of_inf_inf (ha : isInf a = true) (hb : isInf b = true) :
    isNaN (fAdd nan place a b) = true ↔ signBit a ≠ signBit b := by
  rw [isNaN_fAdd, addValue_of_inf_inf ha hb]
  by_cases h : signBit a = signBit b <;> simp [h]

theorem isNaN_fSub_of_inf_inf (ha : isInf a = true) (hb : isInf b = true) :
    isNaN (fSub nan place a b) = true ↔ signBit a = signBit b := by
  have hneg : isInf (negate b) = true := by rwa [isInf_negate]
  rw [isNaN_fSub, subValue, addValue_of_inf_inf ha hneg, signBit_negate]
  by_cases h : signBit a = signBit b <;> simp [h]

variable {nan place a b}

/-- A zero result is the operation's value, a delivered NaN being no zero: it has the sign that the value has. -/
theorem signBit_deliver_of_zero {r : Option Word} {neg : Bool} (hr : ∀ v, r = some v → signBit v = neg)
    (hz : isZero (deliver nan place a b r) = true) : signBit (deliver nan place a b r) = neg := by
  cases r with
  | none => simp [isZero_of_nan (isNaN_of_quiet (isQuietNaN_deliver_none nan place a b))] at hz
  | some v => exact hr v rfl

/-- A NaN result of any of the four operations is the quiet NaN of the free bits. -/
theorem eq_quietNaN_of_isNaN {r : Word} (hop : r = fAdd nan place a b ∨ r = fSub nan place a b ∨
    r = fMul nan place a b ∨ r = fDiv nan place a b) (hnan : isNaN r = true) : r = quietNaN (nan place a b) := by
  obtain rfl | rfl | rfl | rfl := hop
  · rw [isNaN_fAdd, Option.isNone_iff_eq_none] at hnan
    rw [fAdd, hnan, deliver]
  · rw [isNaN_fSub, Option.isNone_iff_eq_none] at hnan
    rw [fSub, hnan, deliver]
  · rw [isNaN_fMul, Option.isNone_iff_eq_none] at hnan
    rw [fMul, hnan, deliver]
  · rw [isNaN_fDiv, Option.isNone_iff_eq_none] at hnan
    rw [fDiv, hnan, deliver]

end

/-- The free bits of a quiet NaN: its sign above its payload. -/
def freeBitsOf (q : Word) : BitVec 23 := BitVec.ofNat 23 (q.toNat / 2 ^ 31 * 2 ^ 22 + q.toNat % 2 ^ 22)

/-- The free bits reach every quiet NaN. -/
theorem quietNaN_freeBitsOf {q : Word} (h : isQuietNaN q = true) : quietNaN (freeBitsOf q) = q := by
  have hq := q.isLt
  simp only [isQuietNaN, isNaN, Bool.and_eq_true, beq_iff_eq, expField_eq, BitVec.getLsbD,
    Nat.testBit_eq_decide_div_mod_eq, decide_eq_true_eq] at h
  obtain ⟨⟨hexp, -⟩, hquiet⟩ := h
  apply BitVec.eq_of_toNat_eq
  rw [quietNaN_toNat, freeBitsOf, BitVec.toNat_ofNat]
  split <;> omega

/-- Settles O14: every NaN result is the quiet NaN of the free bits, and these reach every quiet NaN. -/
theorem deliveredNaNsAreQuiet : Obligations.DeliveredNaNsAreQuiet := by
  refine ⟨fun nan place a b r hop hnan => ?_, fun q hq => ⟨fun _ _ _ => freeBitsOf q, fun place a b r hop hnan => ?_⟩⟩
  · rw [eq_quietNaN_of_isNaN hop hnan]
    exact isQuietNaN_quietNaN _
  · rw [eq_quietNaN_of_isNaN hop hnan, quietNaN_freeBitsOf hq]

/-- Settles O13, one row of R122 after the other. -/
theorem specialOperandTable : Obligations.SpecialOperandTable := by
  intro nan place a b
  dsimp only
  refine ⟨fun ha => ?selfDifference, ⟨?posNeg, ?negPos⟩, ?negNeg, fun ha hz hb => ?divByZero,
    fun ha hb => ?zeroByZero, fun ha hb => ?infByInf, fun ha hb => ?infTimesZero, fun ha hb => ?infPlusInf,
    fun ha hb => ?finiteByInf, fun ha hb => ?infPlusFinite, fun ha hb hz => ?infTimesFinite, fun h => ?nanOperand,
    ?signOfZeroProduct, ?signOfZeroQuotient⟩
  case selfDifference => exact fSub_self nan place ha
  case posNeg => exact fAdd_of_zeros nan place rfl rfl
  case negPos => exact fAdd_of_zeros nan place rfl rfl
  case negNeg => exact fAdd_of_zeros nan place rfl rfl
  case divByZero => simp [fDiv, divValue_of_finite_zero ha hz hb]
  case zeroByZero => simp [isNaN_fDiv, divValue_of_zeros ha hb]
  case infByInf => simp [isNaN_fDiv, divValue_of_inf_inf ha hb]
  case infTimesZero => simp [isNaN_fMul, mulValue_of_inf_zero ha hb, mulValue_of_zero_inf hb ha]
  case infPlusInf =>
    exact ⟨isNaN_fAdd_of_inf_inf nan place a b ha hb, isNaN_fSub_of_inf_inf nan place a b ha hb⟩
  case finiteByInf => simp [fDiv, divValue_of_finite_inf ha hb]
  case infPlusFinite => exact ⟨fAdd_of_inf_finite nan place ha hb, fAdd_of_finite_inf nan place hb ha⟩
  case infTimesFinite => simp [fMul, mulValue_of_inf_finite ha hb hz]
  case nanOperand =>
    simp [isNaN_fAdd, isNaN_fSub, isNaN_fMul, isNaN_fDiv, addValue_of_nan h, subValue_of_nan h, mulValue_of_nan h,
      divValue_of_nan h]
  case signOfZeroProduct => exact signBit_deliver_of_zero fun _ => signBit_of_mulValue
  case signOfZeroQuotient => exact signBit_deliver_of_zero fun _ => signBit_of_divValue

end Sys2Proof.Machine

/-! The tiled layout and the increment: the deposits under the three masks, the tiled offset as their sum, and the next
deposit (41_swizzle.md R141 to R144). -/

namespace Sys2Proof.Machine

/-! ### Deposits (41_swizzle.md R143) -/

/-- The weights of a coordinate's bits: the set bits of its mask, lowest first. -/
theorem pdep_xMask_toNat : ∀ v : BitVec 4,
    (pdep v xMask).toNat =
      (if v.getLsbD 0 then 4 else 0) + (if v.getLsbD 1 then 8 else 0) + (if v.getLsbD 2 then 32 else 0) +
        (if v.getLsbD 3 then 256 else 0) := by decide
theorem pdep_yMask_toNat : ∀ v : BitVec 4,
    (pdep v yMask).toNat =
      (if v.getLsbD 0 then 16 else 0) + (if v.getLsbD 1 then 64 else 0) + (if v.getLsbD 2 then 128 else 0) +
        (if v.getLsbD 3 then 8192 else 0) := by decide
theorem pdep_zMask_toNat : ∀ v : BitVec 4,
    (pdep v zMask).toNat =
      (if v.getLsbD 0 then 512 else 0) + (if v.getLsbD 1 then 1024 else 0) + (if v.getLsbD 2 then 2048 else 0) +
        (if v.getLsbD 3 then 4096 else 0) := by decide

/-- `0` has no bit to deposit. -/
theorem pdepFrom_zero (m n pos i : Nat) : pdepFrom 0 m n pos i = 0 := by
  induction n generalizing pos i with
  | zero => rfl
  | succ n ih => simp [pdepFrom, ih]

theorem pdep_zero (m : Offset) : pdep 0 m = 0 := by
  simp [pdep, pdepFrom_zero]

/-- A mask has four bits, and coordinate 15 sets them all (41_swizzle.md R142). -/
theorem pdep_fifteen_xMask : pdep 15 xMask = xMask := by decide
theorem pdep_fifteen_yMask : pdep 15 yMask = yMask := by decide
theorem pdep_fifteen_zMask : pdep 15 zMask = zMask := by decide

/-! ### The tiled offset (41_swizzle.md R143) -/

/-- Offsets within disjoint masks have no bit in common. -/
theorem and_eq_zero_of_disjoint_masks {a b m n : Offset} (ha : a &&& m = a) (hb : b &&& n = b) (h : m &&& n = 0) :
    a &&& b = 0 := by
  calc a &&& b = (a &&& m) &&& (b &&& n) := by rw [ha, hb]
    _ = (a &&& b) &&& (m &&& n) := by ac_rfl
    _ = 0 := by rw [h]; exact BitVec.and_zero

/-- Where no bit is in common, the OR is the sum. -/
theorem or_toNat_of_and_eq_zero {a b : Offset} (h : a &&& b = 0) : (a ||| b).toNat = a.toNat + b.toNat := by
  rw [← BitVec.add_eq_or_of_and_eq_zero a b h, BitVec.toNat_add_of_and_eq_zero h]

/-- The masks being disjoint, the tiled offset is the sum of the three deposits. -/
theorem tiledOffset_toNat (x y z : BitVec 4) :
    (tiledOffset x y z).toNat = (pdep x xMask).toNat + (pdep y yMask).toNat + (pdep z zMask).toNat := by
  obtain ⟨hxy, hxz, hyz, -⟩ := masks_disjoint_cover
  have hx_y : pdep x xMask &&& pdep y yMask = 0 :=
    and_eq_zero_of_disjoint_masks (pdep_and_xMask x) (pdep_and_yMask y) hxy
  have hx_z : pdep x xMask &&& pdep z zMask = 0 :=
    and_eq_zero_of_disjoint_masks (pdep_and_xMask x) (pdep_and_zMask z) hxz
  have hy_z : pdep y yMask &&& pdep z zMask = 0 :=
    and_eq_zero_of_disjoint_masks (pdep_and_yMask y) (pdep_and_zMask z) hyz
  have hxy_z : (pdep x xMask ||| pdep y yMask) &&& pdep z zMask = 0 := by
    rw [BitVec.and_or_distrib_right, hx_z, hy_z, BitVec.or_self]
  rw [tiledOffset, or_toNat_of_and_eq_zero hxy_z, or_toNat_of_and_eq_zero hx_y]

/-- Settles O31: the corners of the grid deposit nothing or a whole mask on each axis. -/
theorem tiledFixedPoints : Obligations.TiledFixedPoints := by
  unfold Obligations.TiledFixedPoints
  simp only [tiledOffset, pdep_zero, pdep_fifteen_xMask, pdep_fifteen_yMask, pdep_fifteen_zMask]
  decide

/-- Settles O32: the OR is the sum of the deposits, and each deposit the sum of its weights. -/
theorem tiledOffsetWeights : Obligations.TiledOffsetWeights := by
  intro x y z
  refine ⟨rfl, ?weights⟩
  case weights =>
    rw [tiledOffset_toNat, pdep_xMask_toNat, pdep_yMask_toNat, pdep_zMask_toNat]
    simp only [Nat.add_assoc]

/-! ### The increment (41_swizzle.md R144) -/

/-- The increment borrows modulo 2^14 and keeps the bits of the mask. -/
theorem nextOffset_toNat (o m : Offset) :
    (nextOffset o m).toNat = (o.toNat + (2 ^ 14 - m.toNat)) % 2 ^ 14 &&& m.toNat := by
  rw [nextOffset, BitVec.toNat_and, BitVec.toNat_sub, Nat.add_comm]

/-- The increment wraps at the whole mask. -/
theorem nextOffset_self (m : Offset) : nextOffset m m = 0 := by
  rw [nextOffset, BitVec.sub_self]
  exact BitVec.zero_and

/-- The increment takes the deposit of a coordinate to that of the next. -/
theorem nextOffset_pdep_xMask : ∀ v : BitVec 4, nextOffset (pdep v xMask) xMask = pdep (v + 1) xMask := by decide
theorem nextOffset_pdep_yMask : ∀ v : BitVec 4, nextOffset (pdep v yMask) yMask = pdep (v + 1) yMask := by decide
theorem nextOffset_pdep_zMask : ∀ v : BitVec 4, nextOffset (pdep v zMask) zMask = pdep (v + 1) zMask := by decide

/-- Settles O34, mask by mask. -/
theorem incrementIsNextDeposit : Obligations.IncrementIsNextDeposit := by
  refine ⟨nextOffset_toNat, fun m hm => ?_⟩
  obtain rfl | rfl | rfl := hm
  · exact ⟨nextOffset_pdep_xMask, pdep_fifteen_xMask, nextOffset_self _⟩
  · exact ⟨nextOffset_pdep_yMask, pdep_fifteen_yMask, nextOffset_self _⟩
  · exact ⟨nextOffset_pdep_zMask, pdep_fifteen_zMask, nextOffset_self _⟩

end Sys2Proof.Machine

/-! The index pair of a scaled coordinate: floor and ceil of a finite value, the clamp, and the pair for each kind of
value (00_scope.md R9, 42_sample.md R162). -/

namespace Sys2Proof.Machine

/-! ### Floor and ceil (00_scope.md R9) -/

section
variable {v : Word} {n : Int}

theorem floorInt_eq (hlo : n * 2 ^ 149 ≤ unitsInt v) (hhi : unitsInt v < (n + 1) * 2 ^ 149) : floorInt v = n := by
  rw [floorInt]
  omega

theorem ceilInt_eq (hlo : (n - 1) * 2 ^ 149 < unitsInt v) (hhi : unitsInt v ≤ n * 2 ^ 149) : ceilInt v = n := by
  rw [ceilInt]
  omega

end

theorem floorInt_le_ceilInt (v : Word) : floorInt v ≤ ceilInt v := by
  rw [floorInt, ceilInt]
  omega

theorem ceilInt_le_floorInt_add_one (v : Word) : ceilInt v ≤ floorInt v + 1 := by
  rw [floorInt, ceilInt]
  omega

/-! ### The clamp (42_sample.md R162) -/

theorem clampIndex_eq (i : Int) : (clampIndex i : Int) = max 0 (min i 15) := by
  unfold clampIndex
  split_ifs <;> omega

theorem clampIndex_le_fifteen (i : Int) : clampIndex i ≤ 15 := by
  have hi := clampIndex_eq i
  omega

theorem clampIndex_mono {i j : Int} (h : i ≤ j) : clampIndex i ≤ clampIndex j := by
  have hi := clampIndex_eq i
  have hj := clampIndex_eq j
  omega

/-- The clamp does not pull neighbours apart. -/
theorem clampIndex_le_add_one {i j : Int} (h : j ≤ i + 1) : clampIndex j ≤ clampIndex i + 1 := by
  have hi := clampIndex_eq i
  have hj := clampIndex_eq j
  omega

/-! ### The index pair of each kind of value (40_interpolate.md R120, 42_sample.md R162) -/

section
variable {v : Word}

theorem lowerIndex_of_nan (h : isNaN v = true) : lowerIndex v = 0 := by
  simp [lowerIndex, h]

theorem upperIndex_of_nan (h : isNaN v = true) : upperIndex v = 0 := by
  simp [upperIndex, h]

theorem lowerIndex_of_inf (h : isInf v = true) : lowerIndex v = if signBit v then 0 else 15 := by
  simp [lowerIndex, isNaN_of_inf h, h]

theorem upperIndex_of_inf (h : isInf v = true) : upperIndex v = if signBit v then 0 else 15 := by
  simp [upperIndex, isNaN_of_inf h, h]

theorem lowerIndex_of_finite (h : isFinite v = true) : lowerIndex v = clampIndex (floorInt v) := by
  simp [lowerIndex, isNaN_of_finite h, isInf_of_finite h]

theorem upperIndex_of_finite (h : isFinite v = true) : upperIndex v = clampIndex (ceilInt v) := by
  simp [upperIndex, isNaN_of_finite h, isInf_of_finite h]

end

/-- Every pattern is a NaN, an infinity or a finite value. -/
theorem isNaN_or_isInf_or_isFinite (v : Word) : isNaN v = true ∨ isInf v = true ∨ isFinite v = true := by
  rw [isFinite_eq_not]
  cases isNaN v <;> cases isInf v <;> decide

/-- The pair is one node or two neighbours, and lies in the grid. -/
theorem indexPair_bounds (v : Word) :
    lowerIndex v ≤ upperIndex v ∧ upperIndex v ≤ lowerIndex v + 1 ∧ upperIndex v ≤ 15 := by
  rcases isNaN_or_isInf_or_isFinite v with h | h | h
  · rw [lowerIndex_of_nan h, upperIndex_of_nan h]
    decide
  · rw [lowerIndex_of_inf h, upperIndex_of_inf h]
    cases signBit v <;> decide
  · rw [lowerIndex_of_finite h, upperIndex_of_finite h]
    exact ⟨clampIndex_mono (floorInt_le_ceilInt v), clampIndex_le_add_one (ceilInt_le_floorInt_add_one v),
      clampIndex_le_fifteen _⟩

/-- Settles O25: the pair of each kind of value, the bounds of a finite one naming its floor and its ceil. -/
theorem sampleIndicesClampFloorCeil : Obligations.SampleIndicesClampFloorCeil := by
  intro v
  refine ⟨fun hnan => ?nan, fun hv => ?negInf, fun hv => ?posInf, fun hfin n => ⟨fun hlo hhi => ?floor,
    fun hlo hhi => ?ceil⟩, indexPair_bounds v⟩
  case nan => exact ⟨lowerIndex_of_nan hnan, upperIndex_of_nan hnan⟩
  case negInf => exact hv ▸ ⟨lowerIndex_of_inf (by decide), upperIndex_of_inf (by decide)⟩
  case posInf => exact hv ▸ ⟨lowerIndex_of_inf (by decide), upperIndex_of_inf (by decide)⟩
  case floor => rw [lowerIndex_of_finite hfin, floorInt_eq hlo hhi, clampIndex_eq]
  case ceil => rw [upperIndex_of_finite hfin, ceilInt_eq hlo hhi, clampIndex_eq]

end Sys2Proof.Machine

/-! Bus errors and command errors at the host port: the cause of a failed check by address, width and direction
(20_memory.md R62 to R68, 60_exceptions.md R185), and what a word refused by the decoder leaves (60_exceptions.md
R184). -/

namespace Sys2Proof.Machine

/-! ### The checks of a transaction, by address (20_memory.md R62) -/

/-- The holes of the address map (60_exceptions.md R185, cause 1). -/
theorem targetOf_eq_none_iff (a : HostAddr) :
    targetOf a = none ↔ (0x08000 ≤ a.toNat ∧ a.toNat ≤ 0x0FFFF) ∨ (0x20010 ≤ a.toNat ∧ a.toNat ≤ 0x2003F) ∨
      (0x20094 ≤ a.toNat ∧ a.toNat ≤ 0x3FFFF) := by
  have ha := a.isLt
  unfold targetOf
  dsimp only
  split_ifs -- one case per row of R62, the bounds of its addresses in the context
  all_goals
    simp only [false_iff, true_iff]
    omega

/-- The addresses of the row of R62 that a target stands in: both byte stores, `FBUF`, one word each of `ID`, `CTRL`,
`STATUS` and `CMD`, and the operand registers. -/
def Target.InRow : Target → Nat → Prop
  | .byteStore _ _, a => a < 0x8000
  | .fbuf _, a => 0x10000 ≤ a ∧ a < 0x20000
  | .id, a => 0x20000 ≤ a ∧ a < 0x20004
  | .ctrl, a => 0x20004 ≤ a ∧ a < 0x20008
  | .status, a => 0x20008 ≤ a ∧ a < 0x2000C
  | .cmd, a => 0x2000C ≤ a ∧ a < 0x20010
  | .reg _, a => 0x20040 ≤ a ∧ a < 0x20094

section
variable {a : HostAddr} {g : Target}

theorem inRow_of_targetOf (h : targetOf a = some g) : g.InRow a.toNat := by
  unfold targetOf at h
  dsimp only at h
  split_ifs at h <;> cases h -- one case per mapped row
  all_goals
    simp only [Target.InRow]
    omega

/-- Above the byte stores every target is accessed by whole words (20_memory.md R63). -/
theorem widthOk_eq_false_iff_of_targetOf (h : targetOf a = some g) (wide : Bool) :
    g.widthOk wide = false ↔ wide = false ∧ 0x10000 ≤ a.toNat := by
  have hrow := inRow_of_targetOf h
  cases g with
  | byteStore _ _ =>
    simp only [Target.InRow] at hrow
    simp only [Target.widthOk, Bool.true_eq_false, false_iff]
    omega
  | fbuf _ | id | ctrl | status | cmd | reg _ =>
    simp only [Target.InRow] at hrow
    simp only [Target.widthOk, iff_self_and]
    omega

/-- Only `ID` and `CMD` have a single direction (20_memory.md R68, check 4); an access that passed checks 2 and 3 can
reach them at the first address of their words alone. -/
theorem directionOk_eq_false_iff_of_targetOf {wide : Bool} (h : targetOf a = some g)
    (hwidth : ¬(wide = false ∧ 0x10000 ≤ a.toNat)) (halign : ¬(wide = true ∧ a.toNat % 4 ≠ 0)) (write : Bool) :
    g.directionOk write = false ↔ (a.toNat = 0x20000 ∧ write = true) ∨ (a.toNat = 0x2000C ∧ write = false) := by
  have hrow := inRow_of_targetOf h
  have haligned : 0x10000 ≤ a.toNat → a.toNat % 4 = 0 := fun hhigh => by
    cases wide with
    | false => exact absurd ⟨rfl, hhigh⟩ hwidth
    | true => exact Decidable.not_not.1 fun hne => halign ⟨rfl, hne⟩
  cases g with
  | id =>
    simp only [Target.InRow] at hrow
    have haddr : a.toNat = 0x20000 := by omega
    simp [Target.directionOk, haddr]
  | cmd =>
    simp only [Target.InRow] at hrow
    have haddr : a.toNat = 0x2000C := by omega
    simp [Target.directionOk, haddr]
  | byteStore _ _ | fbuf _ | ctrl | status | reg _ =>
    simp only [Target.InRow] at hrow
    simp only [Target.directionOk, Bool.true_eq_false, false_iff]
    omega

/-- Outside the words of `ID`, `CTRL` and `STATUS` every target is locked (20_memory.md R67). -/
theorem locked_eq_true_iff_of_targetOf (h : targetOf a = some g) :
    g.locked = true ↔ ¬(0x20000 ≤ a.toNat ∧ a.toNat < 0x2000C) := by
  rw [← locked_eq_false_iff_of_targetOf h, Bool.not_eq_false]

end

/-! ### The first check that fails (20_memory.md R68) -/

theorem checkTxn_of_unmapped {t : HostTxn} (h : targetOf t.addr = none) (busy : Bool) :
    checkTxn t busy = .error .unmapped := by
  simp only [checkTxn, h]

/-- At a mapped address the checks 2 to 5 decide, each reported where it fails and those before it hold. -/
theorem checkTxn_eq_error_iff_of_targetOf {t : HostTxn} {g : Target} (h : targetOf t.addr = some g) (busy : Bool) :
    let narrow := g.widthOk t.isWide = false
    let misaligned := t.isWide = true ∧ t.addr.toNat % 4 ≠ 0
    let direction := g.directionOk t.isWrite = false
    let lockedOut := g.locked = true ∧ busy = true
    checkTxn t busy ≠ .error .unmapped ∧
    (checkTxn t busy = .error .width ↔ narrow) ∧
    (checkTxn t busy = .error .misaligned ↔ ¬narrow ∧ misaligned) ∧
    (checkTxn t busy = .error .direction ↔ ¬narrow ∧ ¬misaligned ∧ direction) ∧
    (checkTxn t busy = .error .busy ↔ ¬narrow ∧ ¬misaligned ∧ ¬direction ∧ lockedOut) := by
  intro narrow misaligned direction lockedOut
  simp only [checkTxn, h]
  split_ifs with hnarrow hmisaligned hdirection hlocked -- one case per check that can fail, and one where all hold
  all_goals
    simp only [ne_eq, Except.error.injEq, reduceCtorEq, not_false_eq_true, true_and, true_iff, false_iff]
    tauto

/-- Settles O43: an unmapped address fails check 1; at a mapped one the condition of each check on the target is the
statement's condition on the address, for check 4 because checks 2 and 3 come first. -/
theorem busErrorCausesInOrder : Obligations.BusErrorCausesInOrder := by
  intro t busy
  dsimp only
  rw [← targetOf_eq_none_iff]
  cases hg : targetOf t.addr with
  | none => simp [checkTxn_of_unmapped hg]
  | some g =>
    obtain ⟨hunmapped, hwidth, halign, hdir, hbusy⟩ := checkTxn_eq_error_iff_of_targetOf hg busy
    rw [hwidth, halign, hdir, hbusy, widthOk_eq_false_iff_of_targetOf hg, locked_eq_true_iff_of_targetOf hg]
    simp only [hunmapped, reduceCtorEq, not_false_eq_true, true_and, iff_self]
    refine ⟨and_congr_right fun hwide => and_congr_right fun haligned => ?direction,
      and_congr_right fun hwide => and_congr_right fun haligned => ?busy⟩
    case direction => exact directionOk_eq_false_iff_of_targetOf hg hwide haligned _
    case busy => rw [directionOk_eq_false_iff_of_targetOf hg hwide haligned, and_comm (a := busy = true)]

/-- Settles O44: the response and the list are the two fields that `step` writes. -/
theorem busErrorChangesNothing : Obligations.BusErrorChangesNothing :=
  fun _ _ _ _ he hc => step_host_of_checkTxn_error he hc

/-! ### A write of `CMD` (20_memory.md R66, 10_state.md R35) -/

theorem step_of_host_event {s : State} {t : HostTxn} {es : List Event} (he : s.events = .host t :: es) :
    step s = hostStep t (s.withEvents es) := by
  simp only [step, he]

theorem checkTxn_write4_cmd (w : Word) : checkTxn (.write4 0x2000C#18 w) false = .ok .cmd := by
  have htarget : targetOf 0x2000C#18 = some .cmd := by decide
  simp [checkTxn, HostTxn.addr, htarget, Target.widthOk, Target.directionOk, HostTxn.isWide, HostTxn.isWrite]

/-- An idle unit is handed the word, and the transaction answers `OK` whether or not the word is legal. -/
theorem hostStep_write4_cmd {s : State} (hidle : s.busy = false) (w : Word) :
    hostStep (.write4 0x2000C#18 w) s = .next ((s.submit w).respond .ok) := by
  simp only [hostStep, hidle, checkTxn_write4_cmd, perform, performWrite4]

/-- Settles O50: the write is one `raiseCmdError`, which keeps a code that stands, and the answer. -/
theorem illegalWordRecordsFirstError : Obligations.IllegalWordRecordsFirstError := by
  intro s es w e he hidle herr
  have hidle' : (s.withEvents es).busy = false := hidle
  have hstep : step s = .next (((s.withEvents es).raiseCmdError e).respond .ok) := by
    rw [step_of_host_event he, hostStep_write4_cmd hidle', State.submit_of_decode_error _ herr]
  rw [hstep]
  cases e <;> rfl

end Sys2Proof.Machine

/-! Legal fields and the words they make: encoding against decoding for every instruction and for all fields of format
`C` (30_encoding.md R91 to R94, R100). -/

namespace Sys2Proof

/-- Settles O2: decoding inverts encoding on every word. -/
theorem decodeEncodeAgree : Obligations.DecodeEncodeAgree :=
  fun i _ => ⟨decode_encode i, fun _ => eq_encode_of_decode⟩

theorem Instr.wellFormed_fields (i : Instr) : i.fields.wellFormed = true := by cases i <;> rfl

/-- The opcodes and selectors that R92 and R93 allow are those that name a command. -/
theorem commandOf_isSome_of_wellFormed : ∀ (sel : BitVec 2) (opc : BitVec 4),
    (⟨0, sel, opc⟩ : Fields).wellFormed = true → (commandOf opc sel).isSome = true := by decide

theorem Fields.exists_instr_of_wellFormed {f : Fields} (h : f.wellFormed = true) : ∃ i : Instr, i.fields = f := by
  obtain ⟨zero, sel, opc⟩ := f
  obtain rfl : zero = 0 := by
    simp only [Fields.wellFormed, Fields.zeroLegal, Bool.and_eq_true, beq_iff_eq] at h
    exact h.1.2
  obtain ⟨i, hi⟩ := Option.isSome_iff_exists.1 (commandOf_isSome_of_wellFormed sel opc h)
  obtain ⟨hopc, hsel⟩ := (commandOf_eq_some_iff opc sel i).1 hi
  exact ⟨i, Fields.eq_of_toNat_eq (by simp) (by rw [hsel]) (by rw [hopc])⟩

/-- Settles O3: legal fields are those of an instruction, and its word decodes to it. -/
theorem legalFieldsDecode : Obligations.LegalFieldsDecode := by
  refine fun f => ⟨fun h => ?decodes, fun ⟨i, _, hi⟩ => hi ▸ i.wellFormed_fields⟩
  case decodes =>
    obtain ⟨i, rfl⟩ := f.exists_instr_of_wellFormed h
    exact ⟨i, decode_encode i, rfl⟩

/-- Settles O4: the three words are encodings, and the last has a reserved bit set. -/
theorem sampleWordsDecode : Obligations.SampleWordsDecode :=
  ⟨decode_encode .bilin, decode_encode .sampleB, decode_encode .dswzBA, by decide, by decide⟩

end Sys2Proof

/-! The unit's turn (10_state.md R20, R46) and the word placed for it (log 8). -/

namespace Sys2Proof.Machine

section
variable {s : State}

theorem unitTurn_of_decode {i : Instr} (hbusy : s.busy = true) (hcur : decode s.cur = .ok i) :
    unitTurn s = exec i s := by
  simp only [unitTurn, hbusy, hcur, if_true]

theorem unitTurn_of_idle (hidle : s.busy = false) : unitTurn s = .next s := by
  simp [unitTurn, hidle]

theorem step_of_no_event (h : s.events = []) : step s = unitTurn s := by
  simp only [step, h]

theorem step_of_unit_event {es : List Event} (h : s.events = .unit :: es) : step s = unitTurn (s.withEvents es) := by
  simp only [step, h]

theorem step_of_rst_event {es : List Event} (h : s.events = .rst :: es) :
    step s = .next (s.withEvents es).resetNow := by
  simp only [step, h]

end

/-- Settles O6. -/
theorem stepRunsTheDecodedCommand : Obligations.StepRunsTheDecodedCommand := by
  refine fun s i _ hbusy hcur => ⟨fun he => ?_, fun es he => ?_⟩
  · rw [step_of_no_event he, unitTurn_of_decode hbusy hcur]
  · rw [step_of_unit_event he, unitTurn_of_decode (s := s.withEvents es) hbusy hcur]

/-- A word placed for the unit is accepted, with the unit's turn first. -/
theorem State.withFetchWord_eq (s : State) (w : Word) :
    s.withFetchWord 32 w.toNat = (s.accept w).withEvents (.unit :: s.events) := by
  have hword : BitVec.ofNat 32 (w.toNat % 2 ^ 32) = w := by
    rw [Nat.mod_eq_of_lt w.isLt, BitVec.ofNat_toNat, BitVec.setWidth_eq]
  rw [State.withFetchWord, hword, placeCommand]

/-- Settles O7: the turn that is first takes the placed word, and the list is then as before. -/
theorem placedWordRunsNext : Obligations.PlacedWordRunsNext := by
  intro s i _
  rw [State.withFetchWord_eq, step_of_unit_event (es := s.events) rfl]
  exact unitTurn_of_decode (s := s.accept (encode i)) rfl (decode_encode i)

/-- Settles O8. -/
theorem idleUnitChangesNothing : Obligations.IdleUnitChangesNothing := by
  refine fun s hidle => ⟨fun he => ?_, fun es he => ?_⟩
  · rw [step_of_no_event he, unitTurn_of_idle hidle]
  · rw [step_of_unit_event he, unitTurn_of_idle (s := s.withEvents es) hidle]

end Sys2Proof.Machine

/-! The walk of `SWZ` and `DSWZ`: `tiled` is a bijection (41_swizzle.md R148), what one walk step does (R145), what the
walk does from any sample to the last, and the net effects and round trips of the commands (R146, R147, R149). -/

namespace Sys2Proof.Machine

/-! ### `tiled` as a bijection (41_swizzle.md R148) -/

theorem pdep_xMask_inj : ∀ v w : BitVec 4, pdep v xMask = pdep w xMask → v = w := by decide
theorem pdep_yMask_inj : ∀ v w : BitVec 4, pdep v yMask = pdep w yMask → v = w := by decide
theorem pdep_zMask_inj : ∀ v w : BitVec 4, pdep v zMask = pdep w zMask → v = w := by decide

/-- Under a mask the tiled offset shows the deposit of that mask's coordinate alone. -/
theorem tiledOffset_and_masks (x y z : BitVec 4) :
    tiledOffset x y z &&& xMask = pdep x xMask ∧ tiledOffset x y z &&& yMask = pdep y yMask ∧
      tiledOffset x y z &&& zMask = pdep z zMask := by
  obtain ⟨hxy, hxz, hyz, -⟩ := masks_disjoint_cover
  have hidden : ∀ {a m n : Offset}, a &&& m = a → m &&& n = 0 → a &&& n = 0 := fun {a m n} ha h => by
    rw [← ha, BitVec.and_assoc, h]
    exact BitVec.and_zero
  have hx_y := hidden (pdep_and_xMask x) hxy
  have hx_z := hidden (pdep_and_xMask x) hxz
  have hy_x := hidden (pdep_and_yMask y) ((BitVec.and_comm _ _).trans hxy)
  have hy_z := hidden (pdep_and_yMask y) hyz
  have hz_x := hidden (pdep_and_zMask z) ((BitVec.and_comm _ _).trans hxz)
  have hz_y := hidden (pdep_and_zMask z) ((BitVec.and_comm _ _).trans hyz)
  simp [tiledOffset, BitVec.and_or_distrib_right, pdep_and_xMask, pdep_and_yMask, pdep_and_zMask, hx_y, hx_z, hy_x,
    hy_z, hz_x, hz_y]

theorem tiledOffset_inj {x y z x' y' z' : BitVec 4} (h : tiledOffset x y z = tiledOffset x' y' z') :
    x = x' ∧ y = y' ∧ z = z' := by
  obtain ⟨hx, hy, hz⟩ := tiledOffset_and_masks x y z
  obtain ⟨hx', hy', hz'⟩ := tiledOffset_and_masks x' y' z'
  rw [h] at hx hy hz
  exact ⟨pdep_xMask_inj _ _ (hx.symm.trans hx'), pdep_yMask_inj _ _ (hy.symm.trans hy'),
    pdep_zMask_inj _ _ (hz.symm.trans hz')⟩

/-- No bit of the three masks is below bit 2. -/
theorem pdep_toNat_mod_four : ∀ v : BitVec 4, (pdep v xMask).toNat % 4 = 0 ∧ (pdep v yMask).toNat % 4 = 0 ∧
    (pdep v zMask).toNat % 4 = 0 := by decide

theorem tiledOffset_mod_four (x y z : BitVec 4) : (tiledOffset x y z).toNat % 4 = 0 := by
  have hx := (pdep_toNat_mod_four x).1
  have hy := (pdep_toNat_mod_four y).2.1
  have hz := (pdep_toNat_mod_four z).2.2
  rw [tiledOffset_toNat]
  omega

/-- The tiled offset of sample number `m`, its coordinates the three nibbles of `m` (10_state.md R27). -/
def sampleTiled (m : BitVec 12) : Offset := tiledOffset (m.extractLsb' 0 4) (m.extractLsb' 4 4) (m.extractLsb' 8 4)

/-- The nibbles of a sample number determine it. -/
theorem eq_of_nibbles_eq {m m' : BitVec 12} (h0 : m.extractLsb' 0 4 = m'.extractLsb' 0 4)
    (h1 : m.extractLsb' 4 4 = m'.extractLsb' 4 4) (h2 : m.extractLsb' 8 4 = m'.extractLsb' 8 4) : m = m' := by
  have hm := m.isLt
  have hm' := m'.isLt
  simp only [← BitVec.toNat_inj, BitVec.extractLsb'_toNat, Nat.shiftRight_eq_div_pow] at *
  omega

theorem sampleTiled_injective : Function.Injective sampleTiled := fun _ _ h => by
  obtain ⟨h0, h1, h2⟩ := tiledOffset_inj h
  exact eq_of_nibbles_eq h0 h1 h2

theorem sampleTiled_mod_four (m : BitVec 12) : (sampleTiled m).toNat % 4 = 0 := tiledOffset_mod_four _ _ _

/-- Which multiple of 4 the tiled offset of a sample is. -/
def tiledSlot (m : Fin (2 ^ 12)) : Fin (2 ^ 12) :=
  ⟨(sampleTiled ⟨m⟩).toNat / 4, by have := (sampleTiled ⟨m⟩).isLt; omega⟩

theorem sampleTiled_toNat_eq_tiledSlot (m : Fin (2 ^ 12)) : (sampleTiled ⟨m⟩).toNat = (tiledSlot m).val * 4 := by
  have hmod := sampleTiled_mod_four ⟨m⟩
  simp only [tiledSlot]
  omega

theorem tiledSlot_injective : Function.Injective tiledSlot := fun m m' h => by
  have heq : sampleTiled ⟨m⟩ = sampleTiled ⟨m'⟩ := BitVec.eq_of_toNat_eq (by
    rw [sampleTiled_toNat_eq_tiledSlot, sampleTiled_toNat_eq_tiledSlot, h])
  exact BitVec.ofFin.inj (sampleTiled_injective heq)

/-- The 4096 samples have distinct tiled offsets, and there are no more multiples of 4 than that. -/
theorem exists_sampleTiled_eq {o : Offset} (ho : o.toNat % 4 = 0) : ∃ m, sampleTiled m = o := by
  have hlt : o.toNat / 4 < 2 ^ 12 := by have := o.isLt; omega
  obtain ⟨m, hm⟩ := Finite.surjective_of_injective tiledSlot_injective ⟨o.toNat / 4, hlt⟩
  refine ⟨⟨m⟩, BitVec.eq_of_toNat_eq ?_⟩
  rw [sampleTiled_toNat_eq_tiledSlot, hm]
  exact Nat.div_mul_cancel (Nat.dvd_of_mod_eq_zero ho)

/-- Settles O33. -/
theorem tiledIsBijection : Obligations.TiledIsBijection := by
  refine ⟨fun _ _ _ _ _ _ => tiledOffset_inj, tiledOffset_mod_four, fun o ho => ?_⟩
  obtain ⟨m, hm⟩ := exists_sampleTiled_eq ho
  exact ⟨_, _, _, hm⟩

/-! ### The offsets of a sample -/

/-- The byte offset of sample `m` in the tiled layout or the linear one (41_swizzle.md R145). -/
def sampleOffset (tiled : Bool) (m : BitVec 12) : Nat := if tiled then (sampleTiled m).toNat else m.toNat * 4

/-- In either layout distinct samples have no byte in common. -/
theorem sampleOffset_disjoint (tiled : Bool) {m m' : BitVec 12} (h : m ≠ m') :
    sampleOffset tiled m + 4 ≤ sampleOffset tiled m' ∨ sampleOffset tiled m' + 4 ≤ sampleOffset tiled m := by
  cases tiled with
  | false =>
    have hne : m.toNat ≠ m'.toNat := fun e => h (BitVec.eq_of_toNat_eq e)
    simp only [sampleOffset, Bool.false_eq_true, if_false]
    omega
  | true =>
    have hne : (sampleTiled m).toNat ≠ (sampleTiled m').toNat := fun e =>
      h (sampleTiled_injective (BitVec.eq_of_toNat_eq e))
    have hm := sampleTiled_mod_four m
    have hm' := sampleTiled_mod_four m'
    simp only [sampleOffset, if_true]
    omega

/-- Every byte of a store is one of the four of some sample, in either layout. -/
theorem exists_sampleOffset (tiled : Bool) {a : Nat} (ha : a < 16384) :
    ∃ m k, k < 4 ∧ sampleOffset tiled m + k = a := by
  cases tiled with
  | false =>
    refine ⟨BitVec.ofNat 12 (a / 4), a % 4, by omega, ?_⟩
    simp only [sampleOffset, BitVec.toNat_ofNat, Bool.false_eq_true, if_false]
    omega
  | true =>
    have ho : (BitVec.ofNat 14 (a / 4 * 4)).toNat = a / 4 * 4 := by
      rw [BitVec.toNat_ofNat]
      omega
    obtain ⟨m, hm⟩ := exists_sampleTiled_eq (o := BitVec.ofNat 14 (a / 4 * 4)) (by omega)
    refine ⟨m, a % 4, by omega, ?_⟩
    simp only [sampleOffset, if_true, hm, ho]
    omega

/-- The number of the sample at a grid cell (10_state.md R27). -/
def sampleNumber (x y z : BitVec 4) : BitVec 12 := z ++ y ++ x

theorem sampleNumber_toNat (x y z : BitVec 4) :
    (sampleNumber x y z).toNat = (z.toNat * 16 + y.toNat) * 16 + x.toNat := by
  simp only [sampleNumber, BitVec.toNat_append]
  rw [← Nat.shiftLeft_add_eq_or_of_lt x.isLt, ← Nat.shiftLeft_add_eq_or_of_lt y.isLt]
  omega

theorem sampleOffset_sampleNumber_linear (x y z : BitVec 4) :
    sampleOffset false (sampleNumber x y z) = ((z.toNat * 16 + y.toNat) * 16 + x.toNat) * 4 := by
  simp [sampleOffset, sampleNumber_toNat]

theorem sampleOffset_sampleNumber_tiled (x y z : BitVec 4) :
    sampleOffset true (sampleNumber x y z) = (tiledOffset x y z).toNat := by
  have hx := x.isLt
  have hy := y.isLt
  have hz := z.isLt
  have hx' : (sampleNumber x y z).extractLsb' 0 4 = x := by
    apply BitVec.eq_of_toNat_eq
    rw [BitVec.extractLsb'_toNat, sampleNumber_toNat, Nat.shiftRight_eq_div_pow]
    omega
  have hy' : (sampleNumber x y z).extractLsb' 4 4 = y := by
    apply BitVec.eq_of_toNat_eq
    rw [BitVec.extractLsb'_toNat, sampleNumber_toNat, Nat.shiftRight_eq_div_pow]
    omega
  have hz' : (sampleNumber x y z).extractLsb' 8 4 = z := by
    apply BitVec.eq_of_toNat_eq
    rw [BitVec.extractLsb'_toNat, sampleNumber_toNat, Nat.shiftRight_eq_div_pow]
    omega
  simp only [sampleOffset, sampleTiled, if_true, hx', hy', hz']

/-! ### One walk step (41_swizzle.md R145) -/

/-- The offset of the walk's sample: the running tiled offset, or the linear one. -/
def State.walkOffset (s : State) (tiled : Bool) : Nat := if tiled then s.walkTiled else s.walkLinear

theorem walkCopy_eq (dir dz : Bool) (s : State) :
    walkCopy dir dz s =
      copySample (s.byteStore dir) (s.byteStore (!dir)) (s.walkOffset dz) (s.walkOffset (!dz)) := by
  cases dz <;> rfl

@[simp] theorem State.setByteStore_walkX (s : State) (b : Bool) (m : Memory 8) :
    (s.setByteStore b m).walkX = s.walkX := by simp only [State.walkX, State.setByteStore_walk]

@[simp] theorem State.setByteStore_walkY (s : State) (b : Bool) (m : Memory 8) :
    (s.setByteStore b m).walkY = s.walkY := by simp only [State.walkY, State.setByteStore_walk]

section
variable (dir dz : Bool) (s : State)

@[simp] theorem walkStep_walk : (walkStep dir dz s).walk = s.walk + 1 := by
  rw [walkStep_eq]; split <;> simp

@[simp] theorem walkStep_offX : (walkStep dir dz s).offX = nextOffset s.offX xMask := by
  rw [walkStep_eq]; split <;> simp

@[simp] theorem walkStep_offY :
    (walkStep dir dz s).offY = if s.walkX = 15 then nextOffset s.offY yMask else s.offY := by
  rw [walkStep_eq]; split <;> simp

@[simp] theorem walkStep_offZ :
    (walkStep dir dz s).offZ = if s.walkX = 15 ∧ s.walkY = 15 then nextOffset s.offZ zMask else s.offZ := by
  rw [walkStep_eq]; split <;> simp

@[simp] theorem walkStep_events : (walkStep dir dz s).events = s.events := by
  rw [walkStep_eq]; split <;> simp

@[simp] theorem walkStep_cur : (walkStep dir dz s).cur = s.cur := by
  rw [walkStep_eq]; split <;> simp

theorem walkStep_busy : (walkStep dir dz s).busy = if s.walk.toNat = 4095 then false else s.busy := by
  simp only [walkStep_eq, walk_last_iff]; split <;> simp

theorem walkStep_done : (walkStep dir dz s).done = if s.walk.toNat = 4095 then true else s.done := by
  simp only [walkStep_eq, walk_last_iff]; split <;> simp

/-- The destination after a walk step: four bytes are the source's, every other byte is as before. -/
theorem read_walkStep_dest (a : Nat) :
    Memory.read ((walkStep dir dz s).byteStore (!dir)) a =
      if s.walkOffset (!dz) ≤ a ∧ a < s.walkOffset (!dz) + 4
      then Memory.read (s.byteStore dir) (s.walkOffset dz + (a - s.walkOffset (!dz)))
      else Memory.read (s.byteStore (!dir)) a := by
  have hdest : (walkStep dir dz s).byteStore (!dir) = walkCopy dir dz s := by
    rw [walkStep_eq]; split <;> simp
  rw [hdest, walkCopy_eq, read_copySample]

@[simp] theorem walkStep_byteStore_source : (walkStep dir dz s).byteStore dir = s.byteStore dir := by
  rw [walkStep_eq]; split <;> simp

/-- A walk step changes the destination store, the walk state, `BUSY` and `DONE`, and nothing else. -/
theorem walkStep_frame : s.SwizzleFrame (walkStep dir dz s) (!dir) where
  regs i := by rw [walkStep_eq]; split <;> simp
  ctrl := by rw [walkStep_eq]; split <;> simp
  error := by rw [walkStep_eq]; split <;> simp
  latches := by rw [walkStep_eq]; split <;> simp
  source a := by rw [Bool.not_not, walkStep_byteStore_source]
  fbuf a := by rw [walkStep_eq]; split <;> simp
  environment := by rw [walkStep_eq]; split <;> simp

end

theorem exec_swizzleInstr (dir dz : Bool) (s : State) : exec (swizzleInstr dir dz) s = .next (walkStep dir dz s) := by
  cases dir <;> cases dz <;> rfl

/-- Settles O35: the copy, the counters and the finish, each read off the walk step. -/
theorem walkStepCompletes : Obligations.WalkStepCompletes := by
  intro dir dz s lo tiled fromOff toOff x y
  have hfrom : fromOff = s.walkOffset dz := by cases dz <;> rfl
  have hto : toOff = s.walkOffset (!dz) := by cases dz <;> rfl
  have hx : s.walkX = 15 ↔ x = 15 := by rw [coord_last, State.walkX_toNat]
  have hy : s.walkY = 15 ↔ y = 15 := by rw [coord_last, State.walkY_toNat]
  refine ⟨walkStep dir dz s, exec_swizzleInstr dir dz s, fun k hk => ?copied, fun a ha => ?kept,
    walkStep_offX dir dz s, ?offY, ?offZ, ?walk, walkStep_busy dir dz s, walkStep_done dir dz s, walkStep_frame dir dz s⟩
  case copied =>
    rw [read_walkStep_dest, ← hto, ← hfrom, if_pos (by omega), Nat.add_sub_cancel_left]
  case kept => rw [read_walkStep_dest, ← hto, if_neg (by omega)]
  case offY => simp only [walkStep_offY, hx]; rfl
  case offZ => simp only [walkStep_offZ, hx, hy]; rfl
  case walk =>
    rw [walkStep_walk, BitVec.toNat_add]
    rfl

/-! ### The running offsets are those of the walk's sample (10_state.md R28) -/

def State.OffsetsMatch (s : State) : Prop :=
  s.offX = pdep s.walkX xMask ∧ s.offY = pdep s.walkY yMask ∧ s.offZ = pdep s.walkZ zMask

/-- Where they match, the walk reads and writes the offsets of its sample. -/
theorem State.OffsetsMatch.walkOffset_eq {s : State} (h : s.OffsetsMatch) (tiled : Bool) :
    s.walkOffset tiled = sampleOffset tiled s.walk := by
  obtain ⟨hx, hy, hz⟩ := h
  cases tiled with
  | false => rfl
  | true => simp only [State.walkOffset, State.walkTiled, hx, hy, hz]; rfl

theorem State.OffsetsMatch.walkOffset_lt {s : State} (h : s.OffsetsMatch) (tiled : Bool) :
    s.walkOffset tiled + 3 < Config.nelem := by
  rw [h.walkOffset_eq]
  have hwalk := s.walk.isLt
  have htiled := (sampleTiled s.walk).isLt
  have hmod := sampleTiled_mod_four s.walk
  unfold Config.nelem
  cases tiled <;> simp only [sampleOffset, Bool.false_eq_true, if_false, if_true] <;> omega

section
variable (dir dz : Bool) (s : State)

theorem walkStep_walkX : (walkStep dir dz s).walkX = s.walkX + 1 := by
  apply BitVec.eq_of_toNat_eq
  rw [State.walkX_toNat, walkStep_walk, BitVec.toNat_add, BitVec.toNat_add, State.walkX_toNat]
  simp

theorem walkStep_walkY : (walkStep dir dz s).walkY = if s.walkX = 15 then s.walkY + 1 else s.walkY := by
  apply BitVec.eq_of_toNat_eq
  have hx := State.walkX_toNat s
  have hy := State.walkY_toNat s
  have h1 : (1 : BitVec 12).toNat = 1 := rfl
  have h1' : (1 : BitVec 4).toNat = 1 := rfl
  simp only [State.walkY_toNat (walkStep dir dz s), walkStep_walk, BitVec.toNat_add, coord_last]
  split_ifs
  · rw [BitVec.toNat_add]
    omega
  · omega

theorem walkStep_walkZ :
    (walkStep dir dz s).walkZ = if s.walkX = 15 ∧ s.walkY = 15 then s.walkZ + 1 else s.walkZ := by
  apply BitVec.eq_of_toNat_eq
  have hx := State.walkX_toNat s
  have hy := State.walkY_toNat s
  have hz := State.walkZ_toNat s
  have h1 : (1 : BitVec 12).toNat = 1 := rfl
  have h1' : (1 : BitVec 4).toNat = 1 := rfl
  simp only [State.walkZ_toNat (walkStep dir dz s), walkStep_walk, BitVec.toNat_add, coord_last]
  split_ifs
  · rw [BitVec.toNat_add]
    omega
  · omega

/-- The increments keep pace with the coordinates (41_swizzle.md R144). -/
theorem walkStep_offsetsMatch {s : State} (h : s.OffsetsMatch) : (walkStep dir dz s).OffsetsMatch := by
  obtain ⟨hx, hy, hz⟩ := h
  refine ⟨?_, ?_, ?_⟩
  · rw [walkStep_offX, walkStep_walkX, hx, nextOffset_pdep_xMask]
  · rw [walkStep_offY, walkStep_walkY, hy]
    split_ifs
    · rw [nextOffset_pdep_yMask]
    · rfl
  · rw [walkStep_offZ, walkStep_walkZ, hz]
    split_ifs
    · rw [nextOffset_pdep_zMask]
    · rfl

end

/-- At sample 0 every coordinate is 0, and so is its deposit. -/
theorem State.offsetsMatch_iff_of_walk_zero {s : State} (h : s.walk = 0) :
    s.OffsetsMatch ↔ s.offX = 0 ∧ s.offY = 0 ∧ s.offZ = 0 := by
  have hx : s.walkX = 0 := by rw [State.walkX, h]; rfl
  have hy : s.walkY = 0 := by rw [State.walkY, h]; rfl
  have hz : s.walkZ = 0 := by rw [State.walkZ, h]; rfl
  rw [State.OffsetsMatch, hx, hy, hz, pdep_zero, pdep_zero, pdep_zero]

theorem State.accept_offsetsMatch (s : State) (w : Word) : (s.accept w).OffsetsMatch :=
  (State.offsetsMatch_iff_of_walk_zero (s.accept_walk w)).2 ⟨rfl, rfl, rfl⟩

/-! ### The walk from any sample to the last -/

theorem State.SwizzleFrame.trans {s t u : State} {dest : Bool} (h : s.SwizzleFrame t dest)
    (h' : t.SwizzleFrame u dest) : s.SwizzleFrame u dest where
  regs i := (h'.regs i).trans (h.regs i)
  ctrl := by
    obtain ⟨h0, h1, h2⟩ := h.ctrl
    obtain ⟨h0', h1', h2'⟩ := h'.ctrl
    exact ⟨h0'.trans h0, h1'.trans h1, h2'.trans h2⟩
  error := ⟨h'.error.1.trans h.error.1, h'.error.2.trans h.error.2⟩
  latches := ⟨h'.latches.1.trans h.latches.1, h'.latches.2.trans h.latches.2⟩
  source a := (h'.source a).trans (h.source a)
  fbuf a := (h'.fbuf a).trans (h.fbuf a)
  environment := by
    obtain ⟨h0, h1, h2⟩ := h.environment
    obtain ⟨h0', h1', h2'⟩ := h'.environment
    exact ⟨h0'.trans h0, h1'.trans h1, h2'.trans h2⟩

/-- What the steps from sample `s.walk` to the last make of `s`. -/
structure State.Walked (dir dz : Bool) (s t : State) : Prop where
  copied : ∀ (m : BitVec 12) (k : Nat), k < 4 → s.walk.toNat ≤ m.toNat →
    Memory.read (t.byteStore (!dir)) (sampleOffset (!dz) m + k) = Memory.read (s.byteStore dir) (sampleOffset dz m + k)
  kept : ∀ (m : BitVec 12) (k : Nat), k < 4 → m.toNat < s.walk.toNat →
    Memory.read (t.byteStore (!dir)) (sampleOffset (!dz) m + k) =
      Memory.read (s.byteStore (!dir)) (sampleOffset (!dz) m + k)
  finished : t.busy = false ∧ t.done = true
  counters : t.walk = 0 ∧ t.offX = 0 ∧ t.offY = 0 ∧ t.offZ = 0
  frame : s.SwizzleFrame t (!dir)

section
variable {dir dz : Bool} {s : State}

/-- A walk step copies its own sample and no byte of another. -/
theorem State.OffsetsMatch.read_walkStep_sample (h : s.OffsetsMatch) (m : BitVec 12) {k : Nat} (hk : k < 4) :
    Memory.read ((walkStep dir dz s).byteStore (!dir)) (sampleOffset (!dz) m + k) =
      if m = s.walk then Memory.read (s.byteStore dir) (sampleOffset dz m + k)
      else Memory.read (s.byteStore (!dir)) (sampleOffset (!dz) m + k) := by
  rw [read_walkStep_dest, h.walkOffset_eq, h.walkOffset_eq]
  by_cases hm : m = s.walk
  · rw [if_pos hm, hm, if_pos (by omega), Nat.add_sub_cancel_left]
  · have hdisjoint := sampleOffset_disjoint (!dz) hm
    rw [if_neg hm, if_neg (by omega)]

/-- The step that copies sample 4095 ends the walk. -/
theorem walked_of_last (h : s.OffsetsMatch) (hlast : s.walk.toNat = 4095) : s.Walked dir dz (walkStep dir dz s) where
  copied m k hk hm := by
    have hmax := m.isLt
    rw [h.read_walkStep_sample m hk, if_pos (BitVec.eq_of_toNat_eq (by omega))]
  kept m k hk hm := by
    rw [h.read_walkStep_sample m hk, if_neg (fun e => by rw [e] at hm; omega)]
  finished := by simp [walkStep_busy, walkStep_done, hlast]
  counters := by
    have hwalk : (walkStep dir dz s).walk = 0 := by
      rw [walkStep_walk]
      apply BitVec.eq_of_toNat_eq
      simp [BitVec.toNat_add, hlast]
    exact ⟨hwalk, (State.offsetsMatch_iff_of_walk_zero hwalk).1 (walkStep_offsetsMatch dir dz h)⟩
  frame := walkStep_frame dir dz s

/-- A walk step, and the walk from the next sample on. -/
theorem walked_of_walkStep {t : State} (h : s.OffsetsMatch) (hlt : s.walk.toNat < 4095)
    (ht : (walkStep dir dz s).Walked dir dz t) : s.Walked dir dz t := by
  have hwalk : (walkStep dir dz s).walk.toNat = s.walk.toNat + 1 := by
    rw [walkStep_walk, BitVec.toNat_add, show (1 : BitVec 12).toNat = 1 from rfl]
    omega
  refine ⟨fun m k hk hm => ?copied, fun m k hk hm => ?kept, ht.finished, ht.counters,
    (walkStep_frame dir dz s).trans ht.frame⟩
  case copied =>
    by_cases hown : m = s.walk
    · rw [ht.kept m k hk (by rw [hown]; omega), h.read_walkStep_sample m hk, if_pos hown]
    · have hne : m.toNat ≠ s.walk.toNat := fun e => hown (BitVec.eq_of_toNat_eq e)
      rw [ht.copied m k hk (by omega), walkStep_byteStore_source]
  case kept =>
    rw [ht.kept m k hk (by omega), h.read_walkStep_sample m hk, if_neg (fun e => by rw [e] at hm; omega)]

theorem step_of_swizzle (hbusy : s.busy = true) (hev : s.events = [])
    (hcur : decode s.cur = .ok (swizzleInstr dir dz)) : step s = .next (walkStep dir dz s) := by
  rw [step_of_no_event hev, unitTurn_of_decode hbusy hcur, exec_swizzleInstr]

/-- With no event left, a swizzle command ends its walk in as many steps as there are samples to copy. -/
theorem exists_run_walked (n : Nat) (hn : s.walk.toNat + n = 4095) (hbusy : s.busy = true) (hev : s.events = [])
    (hcur : decode s.cur = .ok (swizzleInstr dir dz)) (hoff : s.OffsetsMatch) :
    ∃ t, Host.Core.run core (n + 1) s = .next t ∧ s.Walked dir dz t := by
  induction n generalizing s with
  | zero => exact ⟨_, run_succ_of_next 0 (step_of_swizzle hbusy hev hcur), walked_of_last hoff hn⟩
  | succ n ih =>
    have hnotLast : s.walk.toNat ≠ 4095 := by omega
    have hbusy' : (walkStep dir dz s).busy = true := by rw [walkStep_busy, if_neg hnotLast, hbusy]
    have hcur' : decode (walkStep dir dz s).cur = .ok (swizzleInstr dir dz) := by rw [walkStep_cur, hcur]
    have hev' : (walkStep dir dz s).events = [] := by rw [walkStep_events, hev]
    have hwalk : (walkStep dir dz s).walk.toNat + n = 4095 := by
      rw [walkStep_walk, BitVec.toNat_add, show (1 : BitVec 12).toNat = 1 from rfl]
      omega
    obtain ⟨t, hrun, hwalked⟩ := ih hwalk hbusy' hev' hcur' (walkStep_offsetsMatch dir dz hoff)
    exact ⟨t, by rw [run_succ_of_next _ (step_of_swizzle hbusy hev hcur), hrun],
      walked_of_walkStep hoff (by omega) hwalked⟩

end

/-! ### The net effects (41_swizzle.md R146, R147, R149) -/

/-- An accepted swizzle command walks through all 4096 samples. -/
theorem exists_run_accept_walked (dir dz : Bool) (s : State) (hev : s.events = []) :
    ∃ t, Host.Core.run core 4096 (s.accept (encode (swizzleInstr dir dz))) = .next t ∧
      (s.accept (encode (swizzleInstr dir dz))).Walked dir dz t :=
  exists_run_walked 4095 rfl rfl hev (decode_encode _) (s.accept_offsetsMatch _)

/-- The walk from sample 0 leaves out no sample. -/
theorem exists_run_netEffect (dir dz : Bool) (s : State) (hev : s.events = []) :
    ∃ t, Host.Core.run core 4096 (s.accept (encode (swizzleInstr dir dz))) = .next t ∧
      (∀ (m : BitVec 12) (k : Nat), k < 4 → Memory.read (t.byteStore (!dir)) (sampleOffset (!dz) m + k) =
        Memory.read (s.byteStore dir) (sampleOffset dz m + k)) ∧
      t.busy = false ∧ t.done = true ∧ t.walk = 0 ∧ t.offX = 0 ∧ t.offY = 0 ∧ t.offZ = 0 ∧
      (s.accept (encode (swizzleInstr dir dz))).SwizzleFrame t (!dir) := by
  obtain ⟨t, hrun, hwalked⟩ := exists_run_accept_walked dir dz s hev
  obtain ⟨hbusy, hdone⟩ := hwalked.finished
  obtain ⟨hwalk, hx, hy, hz⟩ := hwalked.counters
  exact ⟨t, hrun, fun m k hk => hwalked.copied m k hk (Nat.zero_le _), hbusy, hdone, hwalk, hx, hy, hz, hwalked.frame⟩

theorem encode_swz (dir : Bool) : encode (swizzleInstr dir false) = if dir then 0x00000018#32 else 0x00000008#32 := by
  cases dir <;> rfl

theorem encode_dswz (dir : Bool) : encode (swizzleInstr dir true) = if dir then 0x00000019#32 else 0x00000009#32 := by
  cases dir <;> rfl

/-- Settles O36: every grid cell is a sample, read at its linear and written at its tiled offset. -/
theorem swizzleNetEffect : Obligations.SwizzleNetEffect := by
  intro dir s hev
  rw [← encode_swz]
  obtain ⟨t, hrun, hcopied, hend⟩ := exists_run_netEffect dir false s hev
  refine ⟨t, hrun, fun x y z k hk => ?_, hend⟩
  rw [← sampleOffset_sampleNumber_linear, ← sampleOffset_sampleNumber_tiled]
  exact hcopied (sampleNumber x y z) k hk

/-- Settles O37, as O36 with the two layouts exchanged. -/
theorem deswizzleNetEffect : Obligations.DeswizzleNetEffect := by
  intro dir s hev
  rw [← encode_dswz]
  obtain ⟨t, hrun, hcopied, hend⟩ := exists_run_netEffect dir true s hev
  refine ⟨t, hrun, fun x y z k hk => ?_, hend⟩
  rw [← sampleOffset_sampleNumber_linear, ← sampleOffset_sampleNumber_tiled]
  exact hcopied (sampleNumber x y z) k hk

/-- A command from `BUFA` to `BUFB` and its inverse back: each byte of `BUFA` is one of a sample in the layout that the
first reads and the second writes. -/
theorem exists_roundTrip (dz : Bool) {s : State} (hev : s.events = []) :
    ∃ t u, Host.Core.run core 4096 (s.accept (encode (swizzleInstr false dz))) = .next t ∧
      Host.Core.run core 4096 (t.accept (encode (swizzleInstr true (!dz)))) = .next u ∧
      ∀ a, a < 16384 → Memory.read u.bufA a = Memory.read s.bufA a := by
  obtain ⟨t, hrun, hthere⟩ := exists_run_accept_walked false dz s hev
  have hev' : t.events = [] := hthere.frame.environment.1.trans hev
  obtain ⟨u, hrun', hback⟩ := exists_run_accept_walked true (!dz) t hev'
  refine ⟨t, u, hrun, hrun', fun a ha => ?_⟩
  obtain ⟨m, k, hk, rfl⟩ := exists_sampleOffset dz ha
  have hback' := hback.copied m k hk (Nat.zero_le _)
  rw [Bool.not_not] at hback'
  exact hback'.trans (hthere.copied m k hk (Nat.zero_le _))

/-- Settles O38. -/
theorem swizzleRoundTrip : Obligations.SwizzleRoundTrip :=
  fun _ hev => ⟨exists_roundTrip true hev, exists_roundTrip false hev⟩

end Sys2Proof.Machine

/-! The invariant: it holds at reset, every update that a step can make keeps it, and from a state that has it no step
faults and every accepted command ends (10_state.md R44, 60_exceptions.md R180, 70_reset_and_hazards.md R221). -/

namespace Sys2Proof.Machine

/-! ### Reset (10_state.md R44, 70_reset_and_hazards.md R210) -/

/-- Settles O56. -/
theorem resetControlState : Obligations.ResetControlState :=
  ⟨by decide, by decide, rfl, rfl, rfl, rfl, rfl, rfl, rfl⟩

/-- Settles O57: the state that the reset input leaves is that of reset, but for the list and the NaN seed. -/
theorem resetInputAbandonsTheCommand : Obligations.ResetInputAbandonsTheCommand := by
  intro s es he
  obtain ⟨hctrl, hstatus, -⟩ := resetControlState
  have hregs : ∀ i, State.reset.readX i = 0 := by decide
  exact ⟨_, step_of_rst_event he, hctrl, hstatus, rfl, rfl, rfl, rfl, rfl, rfl, rfl, rfl, fun a => ⟨rfl, rfl, rfl⟩,
    hregs⟩

/-- Settles O58: at sample 0 the offsets are 0, and everything else is empty or idle. -/
theorem invAtReset : Obligations.InvAtReset := by
  obtain ⟨hx, hy, hz⟩ := (State.offsetsMatch_iff_of_walk_zero (s := State.reset) rfl).2 ⟨rfl, rfl, rfl⟩
  exact {
    bufA_wf := rfl
    bufB_wf := rfl
    fbuf_wf := rfl
    cur_legal := nofun
    done_idle := nofun
    err_code := rfl
    walk_idle := fun _ => rfl
    offX_eq := hx
    offY_eq := hy
    offZ_eq := hz }

theorem State.inv_resetNow (s : State) : s.resetNow.Inv := { invAtReset with }

/-- The interpolation and sampling commands are no swizzles. -/
theorem ne_swizzleInstr {i : Instr}
    (hi : (i = .lin ∨ i = .bilin ∨ i = .trilin) ∨ (i = .sampleA ∨ i = .sampleB ∨ i = .sampleF)) (dir dz : Bool) :
    i ≠ swizzleInstr dir dz := by
  rintro rfl
  cases dir <;> cases dz <;> simp [swizzleInstr] at hi

/-! ### The updates of a step keep the invariant -/

namespace State.Inv

variable {s : State} (h : s.Inv)
include h

theorem offsetsMatch : s.OffsetsMatch := ⟨h.offX_eq, h.offY_eq, h.offZ_eq⟩

theorem byteStore_wf (b : Bool) : Memory.wf (s.byteStore b) = true := by
  cases b
  · exact h.bufA_wf
  · exact h.bufB_wf

theorem withEvents (es : List Event) : (s.withEvents es).Inv := { h with }

theorem respond (r : Response) : (s.respond r).Inv := { h with }

theorem writeX (i : Fin 21) (v : Word) : (s.writeX i v).Inv := { h with }

theorem bumpSeed : s.bumpSeed.Inv := { h with }

theorem writeCtrl (v : Word) : (s.writeCtrl v).Inv := { h with }

theorem clearDone : s.clearDone.Inv := { h with done_idle := fun _ => rfl }

theorem clearErr : s.clearErr.Inv := { h with err_code := rfl }

theorem writeStatus (v : Word) : (s.writeStatus v).Inv := by
  unfold State.writeStatus
  dsimp only
  split_ifs
  · exact h.clearDone.clearErr
  · exact h.clearErr
  · exact h.clearDone
  · exact h

theorem setFbuf {m : Memory 32} (hm : Memory.wf m = true) : (s.setFbuf m).Inv := { h with fbuf_wf := hm }

theorem setByteStore (b : Bool) {m : Memory 8} (hm : Memory.wf m = true) : (s.setByteStore b m).Inv := by
  cases b
  · exact { h with bufA_wf := hm }
  · exact { h with bufB_wf := hm }

/-- A command that is no swizzle leaves the walk at sample 0, where it may finish. -/
theorem finish (hwalk : s.walk = 0) : s.finish.Inv :=
  { h with cur_legal := nofun, done_idle := nofun, walk_idle := fun _ => hwalk }

theorem accept {w : Word} {i : Instr} (hw : decode w = .ok i) : (s.accept w).Inv := by
  obtain ⟨hx, hy, hz⟩ := s.accept_offsetsMatch w
  exact { h with
    cur_legal := fun _ => ⟨i, hw⟩
    done_idle := fun _ => rfl
    walk_idle := fun _ => rfl
    offX_eq := hx
    offY_eq := hy
    offZ_eq := hz }

/-- A first error takes its code, one of 1, 2, 3; a later one keeps the code that stands. -/
theorem raiseCmdError (e : CmdError) : (s.raiseCmdError e).Inv := by
  have hcode : (s.raiseCmdError e).errCode = 1 ∨ (s.raiseCmdError e).errCode = 2 ∨
      (s.raiseCmdError e).errCode = 3 := by
    have hold := h.err_code
    rw [State.raiseCmdError_errCode]
    split_ifs with herr
    · rwa [if_pos herr] at hold
    · cases e <;> simp [CmdError.code]
  exact { h with err_code := hcode }

theorem submit (w : Word) : (s.submit w).Inv := by
  rcases s.submit_cases w with ⟨i, hw, heq⟩ | ⟨e, _, heq⟩ <;> rw [heq]
  · exact h.accept hw
  · exact h.raiseCmdError e

theorem hostEffect {t : State} (ht : HostEffect s t) : t.Inv := by
  cases ht with
  | none => exact h
  | byte b off v hoff => exact h.setByteStore b (Memory.wf_write _ _ _ (h.byteStore_wf b) hoff)
  | word b off v hoff => exact h.setByteStore b (wf_writeSampleWord _ _ _ (h.byteStore_wf b) hoff)
  | element i v hi => exact h.setFbuf (Memory.wf_write _ _ _ h.fbuf_wf hi)
  | ctrl v => exact h.writeCtrl v
  | status v => exact h.writeStatus v
  | submit v => exact h.submit v
  | reg i v => exact h.writeX i v

/-! ### The commands keep the invariant -/

omit h in
theorem swizzling_iff {i : Instr} (hcur : decode s.cur = .ok i) :
    s.swizzling ↔ ∃ dir dz, i = swizzleInstr dir dz := by
  simp [State.swizzling, hcur, swizzleInstr]
  tauto

/-- A command that is no swizzle runs with `WALK` 0 (10_state.md R27). -/
theorem walk_eq_zero {i : Instr} (hcur : decode s.cur = .ok i) (hi : ∀ dir dz, i ≠ swizzleInstr dir dz) :
    s.walk = 0 :=
  h.walk_idle fun ⟨_, hsw⟩ => by
    obtain ⟨dir, dz, heq⟩ := (swizzling_iff hcur).1 hsw
    exact hi dir dz heq

theorem scalarResult (hwalk : s.walk = 0) (v : Word) : (s.scalarResult v).Inv :=
  (h.writeX regR0 v).bumpSeed.finish hwalk

theorem sampleResult (hwalk : s.walk = 0) (r : Vector Word 4) : (s.sampleResult r).Inv :=
  ((((h.writeX regR0 r[0]).writeX regR1 r[1]).writeX regR2 r[2]).writeX regR3 r[3]).bumpSeed.finish hwalk

theorem walkStep_byteStore_wf (dir dz b : Bool) : Memory.wf ((walkStep dir dz s).byteStore b) = true := by
  have hdest : Memory.wf (walkCopy dir dz s) = true := by
    rw [walkCopy_eq]
    exact wf_copySample _ _ _ _ (h.byteStore_wf _) (h.offsetsMatch.walkOffset_lt _)
  rw [walkStep_eq]
  split_ifs
  · exact (h.setByteStore (!dir) hdest).byteStore_wf b
  · exact (h.setByteStore (!dir) hdest).byteStore_wf b

/-- A walk step moves `WALK` and the offsets together, and finishes where `WALK` wraps to 0. -/
theorem walkStep {dir dz : Bool} (hbusy : s.busy = true) (hcur : decode s.cur = .ok (swizzleInstr dir dz)) :
    (walkStep dir dz s).Inv := by
  obtain ⟨hx, hy, hz⟩ := walkStep_offsetsMatch dir dz h.offsetsMatch
  obtain ⟨herr, hcode⟩ := (walkStep_frame dir dz s).error
  have hcur' : decode (Machine.walkStep dir dz s).cur = .ok (swizzleInstr dir dz) := by rw [walkStep_cur, hcur]
  refine ⟨h.walkStep_byteStore_wf dir dz false, h.walkStep_byteStore_wf dir dz true, ?fbuf, fun _ => ⟨_, hcur'⟩,
    fun hb => ?done, ?err, fun hidle => ?walk, hx, hy, hz⟩
  case fbuf =>
    rw [walkStep_eq]
    split_ifs <;> simpa using h.fbuf_wf
  case done =>
    rw [walkStep_busy] at hb
    rw [walkStep_done]
    split_ifs at hb ⊢
    exact h.done_idle hb
  case err =>
    rw [herr, hcode]
    exact h.err_code
  case walk =>
    have hlast : s.walk.toNat = 4095 := by
      by_contra hne
      exact hidle ⟨by rw [walkStep_busy, if_neg hne, hbusy], (swizzling_iff hcur').2 ⟨dir, dz, rfl⟩⟩
    rw [walkStep_walk]
    apply BitVec.eq_of_toNat_eq
    simp [BitVec.toNat_add, hlast]

theorem exec {i : Instr} {t : State} (hbusy : s.busy = true) (hcur : decode s.cur = .ok i)
    (ht : exec i s = .next t) : t.Inv := by
  rcases exec_cases i s with ⟨v, heq, hi⟩ | ⟨r, heq, hi⟩ | ⟨st, heq, _⟩ | ⟨dir, dz, heq, rfl⟩
  · have hwalk : s.walk = 0 := h.walk_eq_zero hcur (ne_swizzleInstr (.inl hi))
    cases heq.symm.trans ht
    exact h.scalarResult hwalk v
  · have hwalk : s.walk = 0 := h.walk_eq_zero hcur (ne_swizzleInstr (.inr hi))
    cases heq.symm.trans ht
    exact h.sampleResult hwalk r
  · cases heq.symm.trans ht
  · cases heq.symm.trans ht
    exact h.walkStep hbusy hcur

theorem unitTurn {t : State} (ht : unitTurn s = .next t) : t.Inv := by
  rcases unitTurn_cases s with ⟨_, heq⟩ | ⟨hbusy, i, hcur, heq⟩ | ⟨_, e, _, heq⟩
  · cases heq.symm.trans ht
    exact h
  · exact h.exec hbusy hcur (heq.symm.trans ht)
  · cases heq.symm.trans ht

end State.Inv

/-- Settles O59: whoever moves, the step is made of updates that keep the invariant. -/
theorem stepKeepsInv : Obligations.StepKeepsInv := by
  intro s t h ht
  rcases step_cases s with ⟨es, heq⟩ | ⟨x, es, _, heq⟩ | ⟨es, _, heq⟩
  · exact (h.withEvents es).unitTurn (heq.symm.trans ht)
  · rcases hostStep_cases x (s.withEvents es) with ⟨u, r, hu, hx⟩ | ⟨st, hx⟩
    · cases hx.symm.trans (heq.symm.trans ht)
      exact ((h.withEvents es).hostEffect hu).respond r
    · cases hx.symm.trans (heq.symm.trans ht)
  · cases heq.symm.trans ht
    exact State.inv_resetNow _

/-! ### No fault (60_exceptions.md R180, R182) -/

theorem exec_ne_fault (i : Instr) (s : State) (f : Fault) : exec i s ≠ .fault f := by
  rcases exec_cases i s with ⟨_, heq, _⟩ | ⟨_, heq, _⟩ | ⟨_, heq, _⟩ | ⟨_, _, heq, _⟩ <;> simp [heq]

/-- The unit's turn alone could fault, and does not: the command in progress is a legal one. -/
theorem State.Inv.step_ne_fault {s : State} (h : s.Inv) (f : Fault) : step s ≠ .fault f := by
  rcases step_cases s with ⟨es, heq⟩ | ⟨x, es, _, heq⟩ | ⟨es, _, heq⟩ <;> rw [heq]
  · rcases unitTurn_cases (s.withEvents es) with ⟨_, hu⟩ | ⟨_, i, _, hu⟩ | ⟨hbusy, e, hcur, _⟩
    · simp [hu]
    · rw [hu]
      exact exec_ne_fault i _ f
    · obtain ⟨i, hok⟩ := h.cur_legal hbusy
      cases hok.symm.trans hcur
  · rcases hostStep_cases x (s.withEvents es) with ⟨_, _, _, hx⟩ | ⟨_, hx⟩ <;> simp [hx]
  · simp

/-- Settles O60, step by step: each leaves the invariant for the next. -/
theorem invStatesNeverFault : Obligations.InvStatesNeverFault := by
  intro s h n
  induction n generalizing s with
  | zero => exact fun f => nofun
  | succ n ih =>
    intro f
    cases hs : step s with
    | next t =>
      rw [run_succ_of_next n hs]
      exact ih t (stepKeepsInv s t h hs) f
    | fault g => exact absurd hs (h.step_ne_fault g)
    | refused r =>
      rw [run_succ_of_refused n hs]
      exact nofun

/-! ### Termination (70_reset_and_hazards.md R221) -/

/-- Settles O42: an interpolation or sampling command ends with its one step, a swizzle with its walk. -/
theorem commandsTerminate : Obligations.CommandsTerminate := by
  intro s h hbusy hev
  obtain ⟨i, hcur⟩ := h.cur_legal hbusy
  have hstep : step s = exec i s := by rw [step_of_no_event hev, unitTurn_of_decode hbusy hcur]
  rcases exec_cases i s with ⟨v, heq, _⟩ | ⟨r, heq, _⟩ | ⟨st, heq, hst⟩ | ⟨dir, dz, heq, rfl⟩
  · exact ⟨1, by omega, by omega, .inl ⟨_, run_succ_of_next 0 (hstep.trans heq), rfl, rfl⟩⟩
  · exact ⟨1, by omega, by omega, .inl ⟨_, run_succ_of_next 0 (hstep.trans heq), rfl, rfl⟩⟩
  · refine ⟨1, by omega, by omega, .inr ⟨st, run_succ_of_refused 0 (hstep.trans heq), ?_⟩⟩
    simpa [hcur] using hst
  · have hwalk := s.walk.isLt
    obtain ⟨t, hrun, hwalked⟩ := exists_run_walked (4095 - s.walk.toNat) (by omega) hbusy hev hcur h.offsetsMatch
    exact ⟨_, by omega, by omega, .inl ⟨t, hrun, hwalked.finished⟩⟩

end Sys2Proof.Machine

/-! The shared rounding (40_interpolate.md R121): the magnitudes of the patterns in their order, the rounding between two
neighbours of them, and what `⊕`, `⊖`, `⊗`, `⊘` of finite operands deliver in terms of the exact result. -/

namespace Sys2Proof.Machine

/-! ### The magnitudes in the order of their patterns (40_interpolate.md R120) -/

/-- The units in the magnitude whose bits 30:0 are `p`; past the infinity's pattern the grid goes on as if the exponent
had more bits. -/
def patternUnits (p : Nat) : Nat := unitsOf (p / 2 ^ 23) (p % 2 ^ 23)

theorem magnitude_packBits (neg : Bool) {p : Nat} (hp : p < 2 ^ 31) : magnitude (packBits neg p) = patternUnits p := by
  rw [magnitude, expField_packBits neg p hp, fracField_packBits neg p hp, patternUnits]

theorem magnitude_eq_patternUnits (a : Word) : magnitude a = patternUnits (a.toNat % 2 ^ 31) := by
  rw [magnitude, patternUnits, expField_eq, fracField_eq]
  congr 1 <;> omega

theorem isFinite_iff (a : Word) : isFinite a = true ↔ a.toNat % 2 ^ 31 < infBits := by
  have ha := a.isLt
  rw [isFinite, bne_iff_ne, expField_eq, infBits]
  omega

/-- The pattern of the number `m·2^k`, `m` of 24 bits; `m = 2^24` carries into the exponent field. -/
theorem patternUnits_eq {k m : Nat} (hm : m ≤ 2 ^ 24) (hk : k = 0 ∨ 2 ^ 23 ≤ m) :
    patternUnits (k * 2 ^ 23 + m) = m * 2 ^ k := by
  unfold patternUnits unitsOf
  rcases Nat.lt_or_ge m (2 ^ 23) with hsub | hnorm
  · obtain rfl : k = 0 := by omega
    rw [if_pos (by omega)]
    omega
  · rcases Nat.lt_or_ge m (2 ^ 24) with hlt | hge
    · have hdiv : (k * 2 ^ 23 + m) / 2 ^ 23 = k + 1 := by omega
      have hmod : 2 ^ 23 + (k * 2 ^ 23 + m) % 2 ^ 23 = m := by omega
      rw [hdiv, hmod, if_neg (by omega), Nat.add_sub_cancel]
    · obtain rfl : m = 2 ^ 24 := by omega
      have hdiv : (k * 2 ^ 23 + 2 ^ 24) / 2 ^ 23 = k + 2 := by omega
      have hmod : (k * 2 ^ 23 + 2 ^ 24) % 2 ^ 23 = 0 := by omega
      rw [hdiv, hmod, if_neg (by omega), show k + 2 - 1 = k + 1 from rfl, pow_succ]
      omega

/-- Every pattern is that of some `m·2^k`. -/
theorem exists_pattern_eq (p : Nat) : ∃ k m, p = k * 2 ^ 23 + m ∧ m < 2 ^ 24 ∧ (k = 0 ∨ 2 ^ 23 ≤ m) := by
  rcases Nat.lt_or_ge p (2 ^ 23) with h | h
  · exact ⟨0, p, by omega, by omega, .inl rfl⟩
  · exact ⟨p / 2 ^ 23 - 1, p % 2 ^ 23 + 2 ^ 23, by omega, by omega, .inr (by omega)⟩

theorem patternUnits_strictMono : StrictMono patternUnits := by
  refine strictMono_nat_of_lt_succ fun p => ?_
  obtain ⟨k, m, rfl, hm, hk⟩ := exists_pattern_eq p
  rw [patternUnits_eq (by omega) hk, Nat.add_assoc, patternUnits_eq (by omega) (by omega)]
  exact Nat.mul_lt_mul_of_pos_right (Nat.lt_succ_self m) (by positivity)

/-- A number of at most 24 bits times a power of two that the exponent reaches has a pattern. -/
theorem exists_patternUnits_eq {k : Nat} (hk : k ≤ 253) {m : Nat} (hm : m < 2 ^ 24) :
    ∃ p, p < infBits ∧ patternUnits p = m * 2 ^ k := by
  induction k generalizing m with
  | zero => exact ⟨0 * 2 ^ 23 + m, by unfold infBits; omega, patternUnits_eq (by omega) (.inl rfl)⟩
  | succ k ih =>
    rcases Nat.lt_or_ge m (2 ^ 23) with h | h
    · obtain ⟨p, hp, heq⟩ := ih (by omega) (m := 2 * m) (by omega)
      exact ⟨p, hp, by rw [heq, pow_succ]; ring⟩
    · exact ⟨(k + 1) * 2 ^ 23 + m, by unfold infBits; omega, patternUnits_eq (by omega) (.inr h)⟩

/-! ### Rounding between two neighbours (40_interpolate.md R121) -/

/-- The whole number below the quotient or the one above it, by which is nearer, and by parity where neither is. -/
theorem nearestEven_cases (n d : Nat) :
    (nearestEven n d = n / d ∧ (2 * (n % d) < d ∨ 2 * (n % d) = d ∧ n / d % 2 = 0)) ∨
    (nearestEven n d = n / d + 1 ∧ (d < 2 * (n % d) ∨ 2 * (n % d) = d ∧ n / d % 2 = 1)) := by
  simp only [nearestEven, gt_iff_lt, Bool.or_eq_true, decide_eq_true_eq, Bool.and_eq_true, beq_iff_eq]
  split_ifs <;> omega

/-- No `c` outside the gap between the two is nearer to `n`; one as near is the chosen one, or the chosen one is
even. -/
theorem nearestEven_nearest {n d c : Nat} (hc : c ≤ n / d * d ∨ (n / d + 1) * d ≤ c) (hd : 0 < d) :
    |(nearestEven n d * d : Int) - n| ≤ |(c : Int) - n| ∧
      (|(nearestEven n d * d : Int) - n| = |(c : Int) - n| →
        c = nearestEven n d * d ∨ nearestEven n d % 2 = 0) := by
  have hrem : n % d < d := Nat.mod_lt n hd
  have hn : n / d * d + n % d = n := Nat.div_add_mod' n d
  rw [Nat.succ_mul] at hc
  simp only [abs_eq_max_neg]
  rcases nearestEven_cases n d with ⟨hm, hnear⟩ | ⟨hm, hnear⟩
  · have hprod : nearestEven n d * d = n / d * d := by rw [hm]
    zify at hprod hn hrem hc hnear ⊢
    omega
  · have hprod : nearestEven n d * d = n / d * d + d := by rw [hm, Nat.succ_mul]
    zify at hprod hn hrem hc hnear ⊢
    omega

/-! ### The exponent of the rounding -/

/-- The exponent that leaves 24 bits of the quotient. -/
def roundExp (n d : Nat) : Nat := Nat.log2 (n / d) - 23

/-- The rounded pattern, before what is past the largest finite magnitude becomes the infinity. -/
def roundPattern (n d : Nat) : Nat := roundExp n d * 2 ^ 23 + nearestEven n (d * 2 ^ roundExp n d)

theorem roundUnits_eq (n d : Nat) : roundUnits n d = min (roundPattern n d) infBits := rfl

section
variable {n d : Nat}

/-- Scaled by the exponent, the quotient has 24 bits, or fewer where the exponent is 0. -/
theorem scaled_quotient_bounds (n d : Nat) :
    n / (d * 2 ^ roundExp n d) < 2 ^ 24 ∧ (roundExp n d = 0 ∨ 2 ^ 23 ≤ n / (d * 2 ^ roundExp n d)) := by
  rw [← Nat.div_div_eq_div_mul]
  constructor
  · rw [Nat.div_lt_iff_lt_mul (by positivity), ← pow_add]
    refine lt_of_lt_of_le (Nat.lt_log2_self (n := n / d)) (Nat.pow_le_pow_right (by omega) ?_)
    unfold roundExp
    omega
  · rcases Nat.eq_zero_or_pos (roundExp n d) with h | h
    · exact .inl h
    · have hne : n / d ≠ 0 := fun h0 => by simp [roundExp, h0] at h
      right
      rw [Nat.le_div_iff_mul_le (by positivity), ← pow_add]
      refine le_trans (Nat.pow_le_pow_right (by omega) ?_) (Nat.log2_self_le hne)
      unfold roundExp at *
      omega

/-- The rounded pattern stands for the rounded number. -/
theorem patternUnits_roundPattern (n d : Nat) :
    patternUnits (roundPattern n d) = nearestEven n (d * 2 ^ roundExp n d) * 2 ^ roundExp n d := by
  obtain ⟨hlt, hnorm⟩ := scaled_quotient_bounds n d
  apply patternUnits_eq
  all_goals rcases nearestEven_cases n (d * 2 ^ roundExp n d) with ⟨h, -⟩ | ⟨h, -⟩ <;> omega

/-- No magnitude lies strictly between the two neighbours of the quotient. -/
theorem patternUnits_gap (n d p : Nat) :
    patternUnits p ≤ n / (d * 2 ^ roundExp n d) * 2 ^ roundExp n d ∨
      (n / (d * 2 ^ roundExp n d) + 1) * 2 ^ roundExp n d ≤ patternUnits p := by
  obtain ⟨hlt, hnorm⟩ := scaled_quotient_bounds n d
  generalize n / (d * 2 ^ roundExp n d) = q at *
  rw [← patternUnits_eq (m := q) (by omega) hnorm, ← patternUnits_eq (m := q + 1) (by omega) (by omega)]
  rcases Nat.lt_or_ge (roundExp n d * 2 ^ 23 + q) p with h | h
  · exact .inr (patternUnits_strictMono.monotone h)
  · exact .inl (patternUnits_strictMono.monotone h)

/-- The rounded pattern is a nearest one, and even where there are two. -/
theorem roundPattern_nearest (hd : 0 < d) (n p : Nat) :
    |(patternUnits (roundPattern n d) * d : Int) - n| ≤ |(patternUnits p * d : Int) - n| ∧
      (|(patternUnits (roundPattern n d) * d : Int) - n| = |(patternUnits p * d : Int) - n| →
        patternUnits p = patternUnits (roundPattern n d) ∨ roundPattern n d % 2 = 0) := by
  have hD : 0 < d * 2 ^ roundExp n d := by positivity
  have hgap : patternUnits p * d ≤ n / (d * 2 ^ roundExp n d) * (d * 2 ^ roundExp n d) ∨
      (n / (d * 2 ^ roundExp n d) + 1) * (d * 2 ^ roundExp n d) ≤ patternUnits p * d := by
    refine (patternUnits_gap n d p).imp (fun h => ?_) fun h => ?_
    all_goals
      have := Nat.mul_le_mul_right d h
      linarith
  have hr : patternUnits (roundPattern n d) * d =
      nearestEven n (d * 2 ^ roundExp n d) * (d * 2 ^ roundExp n d) := by
    rw [patternUnits_roundPattern]
    ring
  obtain ⟨hle, htie⟩ := nearestEven_nearest hgap hD
  rw [← Nat.cast_mul, ← hr] at hle htie
  push_cast at hle htie ⊢
  refine ⟨hle, fun h => (htie h).imp (fun heq => ?_) fun heven => ?_⟩
  · exact Nat.eq_of_mul_eq_mul_right hd heq
  · unfold roundPattern
    omega

/-! ### Where the infinity begins (log 14) -/

/-- The rounded pattern reaches the infinity's from half a unit in the last place above the largest finite magnitude
on: below the largest exponent it never does, above it always, and at it the rounding must carry. -/
theorem infBits_le_roundPattern_iff (hd : 0 < d) (n : Nat) :
    infBits ≤ roundPattern n d ↔ (2 ^ 25 - 1) * 2 ^ 252 * d ≤ n := by
  obtain ⟨hlt, hnorm⟩ := scaled_quotient_bounds n d
  have hquot := nearestEven_cases n (d * 2 ^ roundExp n d)
  have hn := Nat.div_add_mod' n (d * 2 ^ roundExp n d)
  have hrem : n % (d * 2 ^ roundExp n d) < d * 2 ^ roundExp n d := Nat.mod_lt n (by positivity)
  unfold roundPattern infBits
  rcases Nat.lt_trichotomy (roundExp n d) 253 with hlow | hat | hhigh
  · have hsmall : n < 2 ^ 24 * (d * 2 ^ 252) := by
      calc n < 2 ^ 24 * (d * 2 ^ roundExp n d) := (Nat.div_lt_iff_lt_mul (by positivity)).1 hlt
        _ ≤ 2 ^ 24 * (d * 2 ^ 252) := by gcongr <;> omega
    omega
  · rw [hat] at hlt hnorm hquot hn hrem ⊢
    generalize hq : n / (d * 2 ^ 253) = q at *
    rcases Nat.lt_or_ge q (2 ^ 24 - 1) with hbelow | htop
    · have hsmall : n < (2 ^ 24 - 1) * (d * 2 ^ 253) := by
        rw [← Nat.div_lt_iff_lt_mul (by positivity), hq]
        exact hbelow
      omega
    · obtain rfl : q = 2 ^ 24 - 1 := by omega
      omega
  · have hlarge : 2 ^ 23 * (d * 2 ^ 254) ≤ n := by
      calc 2 ^ 23 * (d * 2 ^ 254) ≤ 2 ^ 23 * (d * 2 ^ roundExp n d) := by gcongr <;> omega
        _ ≤ n := (Nat.le_div_iff_mul_le (by positivity)).1 (by omega)
    omega

end

/-- Settles O9: a finite result is the rounded pattern, and the finite words have the patterns below the infinity's. -/
theorem roundUnitsNearestEven : Obligations.RoundUnitsNearestEven := by
  intro n d hd
  refine ⟨fun hfin c _ => ?nearest, ?overflow, roundUnits_le n d⟩
  case overflow => rw [roundUnits_eq, min_eq_right_iff, infBits_le_roundPattern_iff hd]
  case nearest =>
    have hround : roundUnits n d = roundPattern n d := by
      rw [roundUnits_eq] at *
      omega
    have hlt : roundPattern n d < 2 ^ 31 := by
      unfold infBits at hfin
      omega
    dsimp only
    rw [hround, magnitude_packBits false hlt, magnitude_eq_patternUnits c]
    obtain ⟨hle, htie⟩ := roundPattern_nearest hd n (c.toNat % 2 ^ 31)
    refine ⟨hle, fun h => (htie h).imp id fun heven => ?_⟩
    simp [BitVec.getLsbD, packBits_toNat false _ hlt, Nat.testBit_zero, heven]

/-! ### Signs -/

/-- A number with the sign of a pattern. -/
def withSign (neg : Bool) (a : Int) : Int := if neg then -a else a

theorem unitsInt_eq_withSign (a : Word) : unitsInt a = withSign (signBit a) (magnitude a) := rfl

theorem withSign_mul (neg : Bool) (a b : Int) : withSign neg a * b = withSign neg (a * b) := by
  cases neg <;> simp [withSign]

theorem abs_withSign (neg : Bool) (a : Int) : |withSign neg a| = |a| := by
  cases neg <;> simp [withSign]

theorem abs_withSign_sub_withSign (neg : Bool) (a b : Int) : |withSign neg a - withSign neg b| = |a - b| := by
  cases neg
  · rfl
  · rw [withSign, withSign, if_pos rfl, if_pos rfl, ← abs_neg]
    congr 1
    ring

theorem abs_withSign_sub_withSign_of_ne {neg neg' : Bool} (h : neg ≠ neg') {a b : Int} (ha : 0 ≤ a) (hb : 0 ≤ b) :
    |withSign neg a - withSign neg' b| = a + b := by
  have hpos : |a + b| = a + b := abs_of_nonneg (by omega)
  have hneg : |-a - b| = a + b := by rw [← hpos, ← abs_neg]; congr 1; ring
  cases neg <;> cases neg' <;> simp [withSign, hpos, hneg] at h ⊢

/-- A magnitude that is nearest among the magnitudes, zero among them, is so among the values of both signs. -/
theorem signed_nearest (neg neg' : Bool) {x y n : Int} (hy : 0 ≤ y) (hn : 0 ≤ n) (hle : |x - n| ≤ |y - n|)
    (hle0 : |x - n| ≤ n) :
    |withSign neg x - withSign neg n| ≤ |withSign neg' y - withSign neg n| ∧
      (|withSign neg x - withSign neg n| = |withSign neg' y - withSign neg n| →
        |x - n| = |y - n| ∧ (neg' = neg ∨ y = 0)) := by
  rw [abs_withSign_sub_withSign]
  by_cases hsign : neg' = neg
  · rw [hsign, abs_withSign_sub_withSign]
    exact ⟨hle, fun h => ⟨h, .inl rfl⟩⟩
  · rw [abs_withSign_sub_withSign_of_ne hsign hy hn]
    refine ⟨by omega, fun h => ?_⟩
    obtain rfl : y = 0 := by omega
    rw [zero_sub, abs_neg, abs_of_nonneg hn]
    exact ⟨by omega, .inr rfl⟩

/-! ### A pattern as an exact fraction rounded once -/

/-- `r` is `e/d` units rounded once: never a NaN, the infinity from the overflow point on (log 14), of the sign of `e`,
and where finite a nearest value, the even one of two. -/
structure Rounds (r : Word) (e : Int) (d : Nat) : Prop where
  notNaN : isNaN r = false
  isInf_iff : isInf r = true ↔ (2 ^ 25 - 1) * 2 ^ 252 * (d : Int) ≤ |e|
  sign : e ≠ 0 → signBit r = decide (e < 0)
  nearest : isFinite r = true → ∀ c : Word, isFinite c = true →
    |unitsInt r * d - e| ≤ |unitsInt c * d - e| ∧
      (|unitsInt r * d - e| = |unitsInt c * d - e| → unitsInt c = unitsInt r ∨ r.getLsbD 0 = false)

theorem isInf_packBits {neg : Bool} {low : Nat} (h : low ≤ infBits) :
    isInf (packBits neg low) = true ↔ low = infBits := by
  have hlow : low < 2 ^ 31 := lt_of_le_of_lt h (by decide)
  simp only [isInf, expField_packBits neg low hlow, fracField_packBits neg low hlow, Bool.and_eq_true, beq_iff_eq]
  unfold infBits at *
  omega

theorem isFinite_packBits {neg : Bool} {low : Nat} (h : low < 2 ^ 31) :
    isFinite (packBits neg low) = true ↔ low < infBits := by
  rw [isFinite_iff, packBits_toNat neg low h]
  cases neg <;> simp <;> omega

theorem packBits_getLsbD_zero (neg : Bool) {low : Nat} (h : low < 2 ^ 31) :
    (packBits neg low).getLsbD 0 = (packBits false low).getLsbD 0 := by
  cases neg
  · rfl
  · simp [BitVec.getLsbD, packBits_toNat _ _ h, Nat.testBit_zero]
    omega

/-- The rounding of a magnitude, carried over to signed values. -/
theorem rounds_packBits (neg : Bool) (n : Nat) {d : Nat} (hd : 0 < d) :
    Rounds (packBits neg (roundUnits n d)) (withSign neg n) d := by
  obtain ⟨hnear, hinf, hle⟩ := roundUnitsNearestEven n d hd
  have hlt : roundUnits n d < 2 ^ 31 := lt_of_le_of_lt hle (by decide)
  refine ⟨isNaN_packBits neg _ hle, ?isInf, fun he => ?sign, fun hfin c hc => ?nearest⟩
  case isInf =>
    rw [isInf_packBits hle, hinf, abs_withSign, Nat.abs_cast]
    zify
    norm_num
  case sign =>
    rw [signBit_packBits_roundUnits]
    cases neg <;> simp [withSign] at he ⊢
    omega
  case nearest =>
    have hfin' : roundUnits n d < infBits := (isFinite_packBits hlt).1 hfin
    obtain ⟨hle, htie⟩ := hnear hfin' c hc
    have hle0 := (hnear hfin' 0 rfl).1
    rw [show magnitude 0 = 0 by decide, Nat.cast_zero, zero_mul, zero_sub, abs_neg, Nat.abs_cast] at hle0
    rw [packBits_getLsbD_zero neg hlt, unitsInt_eq_withSign, unitsInt_eq_withSign, signBit_packBits_roundUnits,
      magnitude_packBits neg hlt, withSign_mul, withSign_mul]
    rw [magnitude_packBits false hlt] at hle hle0 htie
    obtain ⟨hsigned, hsignedTie⟩ :=
      signed_nearest neg (signBit c) (y := magnitude c * d) (by positivity) (by positivity) hle hle0
    refine ⟨hsigned, fun heq => ?_⟩
    obtain ⟨hmag, hsign⟩ := hsignedTie heq
    refine (htie hmag).imp (fun hm => ?_) id
    rcases hsign with hsign | hzero
    · rw [hsign, hm]
    · have hc0 : magnitude c = 0 := by
        rcases mul_eq_zero.1 hzero with h | h <;> omega
      rw [← hm, hc0]
      cases neg <;> cases signBit c <;> rfl

end Sys2Proof.Machine

/-! Each of `⊕`, `⊖`, `⊗`, `⊘` of finite operands is the exact result rounded once (40_interpolate.md R121), and is exact
where the exact result is a binary32 value. -/

namespace Sys2Proof.Machine

/-! ### The exact result of each operation -/

theorem withSign_xor_mul (sa sb : Bool) (a b : Int) :
    withSign (sa != sb) (a * b) = withSign sa a * withSign sb b := by
  cases sa <;> cases sb <;> simp [withSign]

section
variable (nan : NaNSource) (place : Nat) {a b : Word} (ha : isFinite a = true) (hb : isFinite b = true)

theorem addFinite_rounds (a b : Word) : Rounds (addFinite a b) (unitsInt a + unitsInt b) 1 := by
  by_cases hcancel : unitsInt a + unitsInt b = 0
  · have hzero := rounds_packBits (signBit a && signBit b) 0 one_pos
    rw [addFinite_of_cancel hcancel, hcancel]
    rwa [show roundUnits 0 1 = 0 by decide, show withSign _ ((0 : Nat) : Int) = 0 by simp [withSign]] at hzero
  · have hsum := rounds_packBits (decide (unitsInt a + unitsInt b < 0)) (unitsInt a + unitsInt b).natAbs one_pos
    have hsign : withSign (decide (unitsInt a + unitsInt b < 0)) (unitsInt a + unitsInt b).natAbs =
        unitsInt a + unitsInt b := by
      simp only [withSign, decide_eq_true_eq]
      split_ifs <;> omega
    rw [hsign] at hsum
    simpa only [addFinite, if_neg hcancel] using hsum

include ha hb

theorem fAdd_rounds : Rounds (fAdd nan place a b) (unitsInt a + unitsInt b) 1 := by
  rw [fAdd, addValue_of_finite ha hb, deliver_some]
  exact addFinite_rounds a b

theorem fSub_rounds : Rounds (fSub nan place a b) (unitsInt a - unitsInt b) 1 := by
  have hb' : isFinite (negate b) = true := by rwa [isFinite_negate]
  rw [fSub, subValue, addValue_of_finite ha hb', deliver_some, sub_eq_add_neg, ← unitsInt_negate]
  exact addFinite_rounds a (negate b)

theorem fMul_rounds : Rounds (fMul nan place a b) (unitsInt a * unitsInt b) (2 ^ 149) := by
  have h := rounds_packBits (signBit a != signBit b) (magnitude a * magnitude b) (d := 2 ^ 149) (by positivity)
  rw [Nat.cast_mul, withSign_xor_mul, ← unitsInt_eq_withSign, ← unitsInt_eq_withSign] at h
  rwa [fMul, mulValue_of_finite ha hb, deliver_some]

theorem signBit_fMul : signBit (fMul nan place a b) = (signBit a != signBit b) := by
  rw [fMul, mulValue_of_finite ha hb, deliver_some, signBit_packBits_roundUnits]

theorem fDiv_rounds (hz : isZero b = false) :
    Rounds (fDiv nan place a b) (withSign (signBit b) (unitsInt a * 2 ^ 149)) (magnitude b) := by
  have hpos : 0 < magnitude b := by
    rw [isZero, Bool.and_eq_false_iff, beq_eq_false_iff_ne, beq_eq_false_iff_ne] at hz
    rw [magnitude, unitsOf]
    split_ifs
    · omega
    · positivity
  have h := rounds_packBits (signBit a != signBit b) (magnitude a * 2 ^ 149) hpos
  have hexact : withSign (signBit a != signBit b) ((magnitude a * 2 ^ 149 : Nat) : Int) =
      withSign (signBit b) (unitsInt a * 2 ^ 149) := by
    rw [unitsInt_eq_withSign]
    cases signBit a <;> cases signBit b <;> simp [withSign]
  rw [hexact] at h
  rwa [fDiv, divValue_of_finite ha hb hz, deliver_some]

theorem signBit_fDiv (hz : isZero b = false) : signBit (fDiv nan place a b) = (signBit a != signBit b) := by
  rw [fDiv, divValue_of_finite ha hb hz, deliver_some, signBit_packBits_roundUnits]

end

/-! ### The operations are correctly rounded -/

/-- Settles O10: a sum or a difference is a whole number of units rounded once. -/
theorem addSubCorrectlyRounded : Obligations.AddSubCorrectlyRounded := by
  intro nan place a b ha hb r e hr
  have h : Rounds r e 1 := by
    rcases hr with ⟨rfl, rfl⟩ | ⟨rfl, rfl⟩
    · exact fAdd_rounds nan place ha hb
    · exact fSub_rounds nan place ha hb
  refine ⟨h.notNaN, ?_, h.sign, fun hfin c hc => ?_⟩
  · simpa only [Nat.cast_one, mul_one] using h.isInf_iff
  · simpa only [Nat.cast_one, mul_one] using h.nearest hfin c hc

/-- Settles O11: a product is a number of units of 2^-298, of which 2^149 make one of 2^-149. -/
theorem mulCorrectlyRounded : Obligations.MulCorrectlyRounded := by
  intro nan place a b ha hb
  have h := fMul_rounds nan place ha hb
  refine ⟨h.notNaN, signBit_fMul nan place ha hb, ?_, fun hfin c hc => ?_⟩
  · simpa only [Nat.cast_pow, Nat.cast_ofNat] using h.isInf_iff
  · simpa only [Nat.cast_pow, Nat.cast_ofNat] using h.nearest hfin c hc

/-- Cross-multiplied by a divisor, the distance to the quotient does not depend on the divisor's sign. -/
theorem abs_mul_unitsInt_sub (x e : Int) (b : Word) :
    |x * unitsInt b - e| = |x * magnitude b - withSign (signBit b) e| := by
  rw [unitsInt_eq_withSign]
  cases signBit b
  · rfl
  · rw [withSign, withSign, if_pos rfl, if_pos rfl, ← abs_neg]
    congr 1
    ring

/-- Settles O12: the rounding of the quotient is the rounding by the magnitude of the divisor. -/
theorem divCorrectlyRounded : Obligations.DivCorrectlyRounded := by
  intro nan place a b ha hb hz
  have h := fDiv_rounds nan place ha hb hz
  refine ⟨h.notNaN, signBit_fDiv nan place ha hb hz, ?_, fun hfin c hc => ?_⟩
  · have hmag : |unitsInt b| = magnitude b := by rw [unitsInt_eq_withSign, abs_withSign, Nat.abs_cast]
    rw [hmag, ← abs_withSign (signBit b) (unitsInt a * 2 ^ 149)]
    exact h.isInf_iff
  · rw [abs_mul_unitsInt_sub, abs_mul_unitsInt_sub]
    exact h.nearest hfin c hc

/-! ### Exact results -/

theorem magnitude_le_of_finite {a : Word} (ha : isFinite a = true) : magnitude a ≤ (2 ^ 24 - 1) * 2 ^ 253 := by
  rw [magnitude_eq_patternUnits, ← patternUnits_eq (k := 253) (m := 2 ^ 24 - 1) (by omega) (by omega)]
  have hlt := (isFinite_iff a).1 ha
  unfold infBits at hlt
  exact patternUnits_strictMono.monotone (by omega)

theorem isFinite_of_not_nan_inf {a : Word} (hn : isNaN a = false) (hi : isInf a = false) : isFinite a = true := by
  rw [isFinite_eq_not, hn, hi]
  rfl

/-- Where the exact result is a value, it is the value delivered. -/
theorem Rounds.exact {r : Word} {e : Int} {d : Nat} (h : Rounds r e d) (hd : 0 < d) {c : Word}
    (hc : isFinite c = true) (he : unitsInt c * d = e) : isFinite r = true ∧ unitsInt r = unitsInt c := by
  have hd' : (0 : Int) < d := by exact_mod_cast hd
  have hinf : isInf r = false := by
    refine Bool.eq_false_of_not_eq_true fun hinf => ?_
    have hover := h.isInf_iff.1 hinf
    have hc' := magnitude_le_of_finite hc
    rw [← he, abs_mul, unitsInt_eq_withSign, abs_withSign, Nat.abs_cast, Nat.abs_cast] at hover
    have hle := le_of_mul_le_mul_right hover hd'
    omega
  have hfin := isFinite_of_not_nan_inf h.notNaN hinf
  have hnear := (h.nearest hfin c hc).1
  rw [he, sub_self, abs_zero] at hnear
  have heq : unitsInt r * d = unitsInt c * d := by
    rw [he]
    exact sub_eq_zero.1 (abs_nonpos_iff.1 hnear)
  exact ⟨hfin, mul_right_cancel₀ hd'.ne' heq⟩

/-- A number of at most 24 bits times a power of two in range is a value. -/
theorem exists_unitsInt_eq {j : Int} {k : Nat} (hj : |j| < 2 ^ 24) (hk : k ≤ 253) :
    ∃ c, isFinite c = true ∧ unitsInt c = j * 2 ^ k := by
  obtain ⟨p, hp, hunits⟩ := exists_patternUnits_eq hk (m := j.natAbs) (by zify; exact hj)
  have hp' : p < 2 ^ 31 := lt_trans hp (by decide)
  refine ⟨packBits (decide (j < 0)) p, (isFinite_packBits hp').2 hp, ?_⟩
  rw [unitsInt_eq_withSign, signBit_packBits _ _ hp', magnitude_packBits _ hp', hunits]
  push_cast
  rw [← withSign_mul]
  congr 1
  simp only [withSign, decide_eq_true_eq]
  split_ifs with hneg
  · rw [abs_of_neg hneg, neg_neg]
  · rw [abs_of_nonneg (by omega)]

theorem Rounds.exact_of_scaled {r : Word} {e : Int} {d : Nat} (h : Rounds r e d) (hd : 0 < d) {j : Int} {k : Nat}
    (hj : |j| < 2 ^ 24) (hk : k ≤ 253) (he : j * 2 ^ k * d = e) : isFinite r = true ∧ unitsInt r = j * 2 ^ k := by
  obtain ⟨c, hc, hunits⟩ := exists_unitsInt_eq hj hk
  rw [← hunits] at he ⊢
  exact h.exact hd hc he

/-- Settles O15: a whole number below 2^24 has few enough bits. -/
theorem wholeNumbersConvertExactly : Obligations.WholeNumbersConvertExactly := by
  intro n hn
  have h := rounds_packBits false (n * 2 ^ 149) one_pos
  obtain ⟨hfin, hunits⟩ := h.exact_of_scaled one_pos (j := n) (k := 149) (by simpa using mod_cast hn) (by omega)
    (by simp [withSign])
  exact ⟨hfin, signBit_packBits_roundUnits _ _ _, hunits⟩

end Sys2Proof.Machine

/-! `lin` (40_interpolate.md R125 to R128): NaN operands, the degenerate interval, and the unit interval with what it makes
of byte data (R131). -/

namespace Sys2Proof.Machine

/-! ### Equality of values -/

theorem isZero_iff_unitsInt (a : Word) : isZero a = true ↔ unitsInt a = 0 := by
  have hmag : isZero a = true ↔ magnitude a = 0 := by
    rw [isZero, Bool.and_eq_true, beq_iff_eq, beq_iff_eq, magnitude, unitsOf]
    split_ifs with he
    · simp [he]
    · simp [he]
  rw [hmag, unitsInt_eq_withSign, ← abs_eq_zero, abs_withSign, abs_eq_zero, Nat.cast_eq_zero]

/-- A pattern is its sign and its magnitude. -/
theorem eq_of_signBit_of_magnitude {a b : Word} (hs : signBit a = signBit b) (hm : magnitude a = magnitude b) :
    a = b := by
  have ha := a.isLt
  have hb := b.isLt
  rw [magnitude_eq_patternUnits, magnitude_eq_patternUnits] at hm
  have hlow := patternUnits_strictMono.injective hm
  rw [signBit_eq, signBit_eq, decide_eq_decide] at hs
  apply BitVec.eq_of_toNat_eq
  omega

theorem eq_of_signBit_of_unitsInt {a b : Word} (hs : signBit a = signBit b) (hu : unitsInt a = unitsInt b) :
    a = b := by
  have habs := congrArg abs hu
  rw [unitsInt_eq_withSign, unitsInt_eq_withSign, abs_withSign, abs_withSign, Nat.abs_cast, Nat.abs_cast] at habs
  exact eq_of_signBit_of_magnitude hs (by exact_mod_cast habs)

/-- Unequal signs leave only zero as a common value. -/
theorem unitsInt_eq_zero_of_signBit_ne {a b : Word} (hs : signBit a ≠ signBit b) (hu : unitsInt a = unitsInt b) :
    unitsInt a = 0 := by
  rw [unitsInt_eq_withSign, unitsInt_eq_withSign] at *
  revert hs hu
  cases signBit a <;> cases signBit b <;> simp [withSign] <;> omega

theorem fEq_iff_unitsInt {a b : Word} (ha : isFinite a = true) (hb : isFinite b = true) :
    fEq a b = true ↔ unitsInt a = unitsInt b := by
  simp only [fEq, isNaN_of_finite ha, isNaN_of_finite hb, Bool.not_false, Bool.true_and, Bool.or_eq_true,
    Bool.and_eq_true, beq_iff_eq, isZero_iff_unitsInt]
  constructor
  · rintro (rfl | ⟨hza, hzb⟩)
    · rfl
    · rw [hza, hzb]
  · intro hu
    by_cases hs : signBit a = signBit b
    · exact .inl (eq_of_signBit_of_unitsInt hs hu)
    · have hza := unitsInt_eq_zero_of_signBit_ne hs hu
      exact .inr ⟨hza, hu ▸ hza⟩

theorem isFinite_of_fEq {a b : Word} (h : fEq a b = true) (ha : isFinite a = true) : isFinite b = true := by
  simp only [fEq, Bool.and_eq_true, Bool.or_eq_true, beq_iff_eq] at h
  rcases h with ⟨-, rfl | ⟨-, hz⟩⟩
  · exact ha
  · exact isFinite_of_zero hz

/-! ### NaN operands (40_interpolate.md R123, R128) -/

section
variable (nan : NaNSource) (place : Nat) {a b : Word} (h : isNaN a = true ∨ isNaN b = true)
include h

theorem isNaN_fAdd_of_nan : isNaN (fAdd nan place a b) = true := by simp [isNaN_fAdd, addValue_of_nan h]
theorem isNaN_fSub_of_nan : isNaN (fSub nan place a b) = true := by simp [isNaN_fSub, subValue_of_nan h]
theorem isNaN_fMul_of_nan : isNaN (fMul nan place a b) = true := by simp [isNaN_fMul, mulValue_of_nan h]
theorem isNaN_fDiv_of_nan : isNaN (fDiv nan place a b) = true := by simp [isNaN_fDiv, divValue_of_nan h]

end

section
variable (nan : NaNSource) (place : Nat) {dg : Bool} {x x0 x1 f0 f1 : Word}

/-- Without the bypass the result of `lin` is that of an operation: if a NaN, a quiet one. -/
theorem isQuietNaN_lin_of_isNaN (hbypass : (dg && fEq x0 x1) = false)
    (h : isNaN (lin nan place dg x x0 x1 f0 f1) = true) : isQuietNaN (lin nan place dg x x0 x1 f0 f1) = true := by
  rw [lin_of_no_bypass nan place dg x x0 x1 f0 f1 hbypass] at h ⊢
  exact deliveredNaNsAreQuiet.1 nan _ _ _ _ (.inl rfl) h

/-- A NaN operand passes through every operation between it and the result. -/
theorem isQuietNaN_lin_of_nan (hbypass : (dg && fEq x0 x1) = false)
    (h : isNaN x = true ∨ isNaN x0 = true ∨ isNaN x1 = true ∨ isNaN f0 = true ∨ isNaN f1 = true) :
    isQuietNaN (lin nan place dg x x0 x1 f0 f1) = true := by
  apply isQuietNaN_lin_of_isNaN nan place hbypass
  rw [lin_of_no_bypass nan place dg x x0 x1 f0 f1 hbypass]
  apply isNaN_fAdd_of_nan
  rcases h with h | h | h | h | h
  · exact .inr (isNaN_fMul_of_nan _ _ (.inl (isNaN_fDiv_of_nan _ _ (.inl (isNaN_fSub_of_nan _ _ (.inl h))))))
  · exact .inr (isNaN_fMul_of_nan _ _ (.inl (isNaN_fDiv_of_nan _ _ (.inl (isNaN_fSub_of_nan _ _ (.inr h))))))
  · exact .inr (isNaN_fMul_of_nan _ _ (.inl (isNaN_fDiv_of_nan _ _ (.inr (isNaN_fSub_of_nan _ _ (.inl h))))))
  · exact .inl h
  · exact .inr (isNaN_fMul_of_nan _ _ (.inr (isNaN_fSub_of_nan _ _ (.inl h))))

end

/-- Settles O18. -/
theorem linNaNOperandGivesNaN : Obligations.LinNaNOperandGivesNaN :=
  fun nan place _ _ _ _ _ _ hbypass h => isQuietNaN_lin_of_nan nan place hbypass h

/-- Settles O16: such bounds are equal as values. -/
theorem linBypassReturnsLowerCorner : Obligations.LinBypassReturnsLowerCorner := by
  intro nan place x x0 x1 f0 f1 hn0 hn1 heq
  apply lin_of_bypass
  simp only [fEq, hn0, hn1, Bool.not_false, Bool.true_and, Bool.or_eq_true, Bool.and_eq_true, beq_iff_eq]
  exact heq

/-! ### The degenerate interval (40_interpolate.md R125, R128) -/

section
variable (nan : NaNSource) (place : Nat) {a b : Word}

theorem isZero_fSub_of_fEq (ha : isFinite a = true) (heq : fEq a b = true) : isZero (fSub nan place a b) = true := by
  have hb := isFinite_of_fEq heq ha
  have hunits := (fEq_iff_unitsInt ha hb).1 heq
  rw [isZero_iff_unitsInt]
  exact ((fSub_rounds nan place ha hb).exact one_pos (c := zeroOf false) rfl (by
    rw [hunits, sub_self, (isZero_iff_unitsInt _).1 (isZero_zeroOf false), zero_mul])).2.trans
      ((isZero_iff_unitsInt _).1 (isZero_zeroOf false))

/-- Gradual underflow: the difference of unequal values is at least one unit, and does not round to zero. -/
theorem isZero_fSub_of_not_fEq (ha : isFinite a = true) (hb : isFinite b = true) (hne : fEq a b = false) :
    isZero (fSub nan place a b) = false := by
  have hunits : unitsInt a - unitsInt b ≠ 0 := fun h => by
    rw [(fEq_iff_unitsInt ha hb).2 (by omega)] at hne
    cases hne
  have h := fSub_rounds nan place ha hb
  refine Bool.eq_false_of_not_eq_true fun hz => ?_
  obtain ⟨up, hup, hup1⟩ := exists_unitsInt_eq (j := 1) (k := 0) (by decide) (by omega)
  obtain ⟨down, hdown, hdown1⟩ := exists_unitsInt_eq (j := -1) (k := 0) (by decide) (by omega)
  have hnear := (h.nearest (isFinite_of_zero hz) up hup).1
  have hnear' := (h.nearest (isFinite_of_zero hz) down hdown).1
  rw [(isZero_iff_unitsInt _).1 hz, hup1] at hnear
  rw [(isZero_iff_unitsInt _).1 hz, hdown1] at hnear'
  simp only [abs_eq_max_neg] at hnear hnear'
  omega

theorem isNaN_fSub_of_finite (ha : isFinite a = true) (hb : isFinite b = true) :
    isNaN (fSub nan place a b) = false := (fSub_rounds nan place ha hb).notNaN

/-- A divisor of zero gives an infinity, but for a NaN or a zero divided. -/
theorem isInf_fDiv_of_zero (hn : isNaN a = false) (hz : isZero a = false) (hb : isZero b = true) :
    isInf (fDiv nan place a b) = true := by
  have hfin := isFinite_of_zero hb
  rcases isNaN_or_isInf_or_isFinite a with h | h | h
  · rw [h] at hn
    cases hn
  · simp [fDiv, divValue, hn, h, isNaN_of_finite hfin, isInf_of_finite hfin]
  · simp [fDiv, divValue_of_finite_zero h hz hb]

theorem isInf_fMul_of_inf (ha : isInf a = true) (hn : isNaN b = false) (hz : isZero b = false) :
    isInf (fMul nan place a b) = true := by
  simp [fMul, mulValue, isNaN_of_inf ha, hn, ha, isZero_of_inf ha, hz]

theorem isNaN_fMul_of_inf_zero (ha : isInf a = true) (hb : isZero b = true) : isNaN (fMul nan place a b) = true := by
  simp [isNaN_fMul, mulValue_of_inf_zero ha hb]

theorem isNaN_fDiv_of_zeros (ha : isZero a = true) (hb : isZero b = true) : isNaN (fDiv nan place a b) = true := by
  simp [isNaN_fDiv, divValue_of_zeros ha hb]

end

/-- Over an interval of no length the parameter is a NaN or an infinity. -/
theorem isNaN_or_isInf_fDiv_of_zero (nan : NaNSource) (place : Nat) (a : Word) {b : Word} (hb : isZero b = true) :
    isNaN (fDiv nan place a b) = true ∨ isInf (fDiv nan place a b) = true := by
  cases hn : isNaN a with
  | true => exact .inl (isNaN_fDiv_of_nan _ _ (.inl hn))
  | false =>
    cases hz : isZero a with
    | true => exact .inl (isNaN_fDiv_of_zeros _ _ hz hb)
    | false => exact .inr (isInf_fDiv_of_zero _ _ hn hz hb)

/-- Settles O17: on the bound the parameter is `0 ⊘ 0`, between equal corners the product `∞ ⊗ 0`; otherwise the
product is infinite. -/
theorem linDegenerateIsIEEE : Obligations.LinDegenerateIsIEEE := by
  intro nan place x x0 x1 f0 f1 hx h0 hf0 hf1 heq
  have h1 := isFinite_of_fEq heq h0
  have heq' : fEq x1 x0 = true := (fEq_iff_unitsInt h1 h0).2 ((fEq_iff_unitsInt h0 h1).1 heq).symm
  have hlength := isZero_fSub_of_fEq nan (place + 1) h1 heq'
  refine ⟨fun hcase => isQuietNaN_lin_of_isNaN nan place rfl ?nan, fun hx0 hcorners => ?inf⟩
  all_goals rw [lin_of_no_bypass nan place false x x0 x1 f0 f1 rfl]
  case nan =>
    refine isNaN_fAdd_of_nan _ _ (.inr ?_)
    rcases hcase with hx0 | hcorners
    · exact isNaN_fMul_of_nan _ _ (.inl (isNaN_fDiv_of_zeros _ _ (isZero_fSub_of_fEq _ _ hx hx0) hlength))
    · have hcorners' : fEq f1 f0 = true := (fEq_iff_unitsInt hf1 hf0).2 ((fEq_iff_unitsInt hf0 hf1).1 hcorners).symm
      rcases isNaN_or_isInf_fDiv_of_zero nan (place + 2) (fSub nan place x x0) hlength with hn | hinf
      · exact isNaN_fMul_of_nan _ _ (.inl hn)
      · exact isNaN_fMul_of_inf_zero _ _ hinf (isZero_fSub_of_fEq _ _ hf1 hcorners')
  case inf =>
    have hcorners' : fEq f1 f0 = false := Bool.eq_false_of_not_eq_true fun h => by
      rw [(fEq_iff_unitsInt hf0 hf1).2 ((fEq_iff_unitsInt hf1 hf0).1 h).symm] at hcorners
      cases hcorners
    have hparameter := isInf_fDiv_of_zero nan (place + 2) (isNaN_fSub_of_finite nan place hx h0)
      (isZero_fSub_of_not_fEq nan place hx h0 hx0) hlength
    have hproduct := isInf_fMul_of_inf nan (place + 4) hparameter (isNaN_fSub_of_finite nan (place + 3) hf1 hf0)
      (isZero_fSub_of_not_fEq nan (place + 3) hf1 hf0 hcorners')
    rw [fAdd_of_finite_inf _ _ hf0 hproduct]
    exact hproduct

/-! ### The unit interval (40_interpolate.md R131) -/

/-- At 0, 0.5 and 1 of the unit interval the parameter is the point itself, in either mode. -/
theorem lin_unit_bounds (nan : NaNSource) (place : Nat) (dg : Bool) (f0 f1 : Word) {x : Word}
    (hx : x = 0x00000000#32 ∨ x = 0x3F000000#32 ∨ x = 0x3F800000#32) :
    lin nan place dg x 0x00000000#32 0x3F800000#32 f0 f1 =
      fAdd nan (place + 5) f0 (fMul nan (place + 4) x (fSub nan (place + 3) f1 f0)) := by
  have hbypass : (dg && fEq 0x00000000#32 0x3F800000#32) = false := by cases dg <;> decide
  have hlength : subValue 0x3F800000#32 0x00000000#32 = some 0x3F800000#32 := by decide
  have hpoint : subValue x 0x00000000#32 = some x ∧ divValue x 0x3F800000#32 = some x := by
    rcases hx with rfl | rfl | rfl <;> decide
  rw [lin_of_no_bypass nan place dg x _ _ f0 f1 hbypass]
  simp only [fSub, fDiv, hlength, hpoint.1, hpoint.2, deliver_some]

section
variable (nan : NaNSource) (place : Nat)

/-- The product at 0 is a zero. -/
theorem unit_product_zero {d : Word} (hd : isFinite d = true) :
    isFinite (fMul nan place 0x00000000#32 d) = true ∧ unitsInt (fMul nan place 0x00000000#32 d) = 0 := by
  have hzero : unitsInt 0x00000000#32 = 0 := by decide
  have h := (fMul_rounds nan place (a := 0x00000000#32) rfl hd).exact (by positivity) (c := 0x00000000#32) rfl
    (by rw [hzero, zero_mul, zero_mul])
  rwa [hzero] at h

/-- The product at 1 is the difference of the corners where a value is that. -/
theorem unit_product_one {f0 f1 d : Word} (h0 : isFinite f0 = true) (h1 : isFinite f1 = true)
    (hd : isFinite d = true) (hdiff : unitsInt d = unitsInt f1 - unitsInt f0) :
    isFinite (fMul nan (place + 4) 0x3F800000#32 (fSub nan (place + 3) f1 f0)) = true ∧
      unitsInt (fMul nan (place + 4) 0x3F800000#32 (fSub nan (place + 3) f1 f0)) = unitsInt f1 - unitsInt f0 := by
  have hone : unitsInt 0x3F800000#32 = 2 ^ 149 := by decide
  obtain ⟨hsub, hsubUnits⟩ := (fSub_rounds nan (place + 3) h1 h0).exact one_pos hd (by rw [hdiff]; simp)
  rw [← hdiff]
  exact (fMul_rounds nan (place + 4) (a := 0x3F800000#32) rfl hsub).exact (by positivity) hd
    (by rw [hone, hsubUnits]; push_cast; ring)

end

theorem fEq_fAdd_of_exact (nan : NaNSource) (place : Nat) {a b c : Word} (ha : isFinite a = true)
    (hb : isFinite b = true) (hc : isFinite c = true) (hsum : unitsInt a + unitsInt b = unitsInt c) :
    fEq (fAdd nan place a b) c = true := by
  obtain ⟨hfin, hunits⟩ := (fAdd_rounds nan place ha hb).exact one_pos hc (by rw [hsum, Nat.cast_one, mul_one])
  exact (fEq_iff_unitsInt hfin hc).2 hunits

/-- Settles O19. -/
theorem linUnitBoundsEnds : Obligations.LinUnitBoundsEnds := by
  refine fun nan place dg f0 f1 h0 h1 => ⟨fun hd => ?_, fun d hd hdiff => ?_⟩
  · obtain ⟨hfin, hunits⟩ := unit_product_zero nan (place + 4) hd
    rw [lin_unit_bounds nan place dg f0 f1 (.inl rfl)]
    exact fEq_fAdd_of_exact nan (place + 5) h0 hfin h0 (by rw [hunits, add_zero])
  · obtain ⟨hfin, hunits⟩ := unit_product_one nan place h0 h1 hd hdiff
    rw [lin_unit_bounds nan place dg f0 f1 (.inr (.inr rfl))]
    exact fEq_fAdd_of_exact nan (place + 5) h0 hfin h1 (by rw [hunits, add_sub_cancel])

/-! ### The unit cube on byte data (40_interpolate.md R131) -/

/-- A sum that is not negative has no sign where the first operand has none: an exact zero is then `+0`. -/
theorem signBit_fAdd_of_nonneg (nan : NaNSource) (place : Nat) {a b : Word} (ha : isFinite a = true)
    (hb : isFinite b = true) (hs : signBit a = false) (hsum : 0 ≤ unitsInt a + unitsInt b) :
    signBit (fAdd nan place a b) = false := by
  by_cases hcancel : unitsInt a + unitsInt b = 0
  · rw [fAdd, addValue_of_finite ha hb, deliver_some, addFinite_of_cancel hcancel, signBit_zeroOf, hs, Bool.false_and]
  · rw [(fAdd_rounds nan place ha hb).sign hcancel, decide_eq_false_iff_not]
    omega

/-- An exact sum without a sign is delivered bit for bit. -/
theorem fAdd_eq_of_exact (nan : NaNSource) (place : Nat) {a b c : Word} (ha : isFinite a = true)
    (hb : isFinite b = true) (hc : isFinite c = true) (hsa : signBit a = false) (hsc : signBit c = false)
    (hsum : unitsInt a + unitsInt b = unitsInt c) : fAdd nan place a b = c := by
  obtain ⟨-, hunits⟩ := (fAdd_rounds nan place ha hb).exact one_pos hc (by rw [hsum, Nat.cast_one, mul_one])
  have hnonneg : 0 ≤ unitsInt c := by
    rw [unitsInt_eq_withSign, hsc]
    exact Int.natCast_nonneg _
  exact eq_of_signBit_of_unitsInt (by rw [signBit_fAdd_of_nonneg nan place ha hb hsa (hsum ▸ hnonneg), hsc]) hunits

/-- At an end of the unit interval, between whole numbers, `lin` is the corner there, bit for bit. -/
theorem lin_unit_end (nan : NaNSource) (place : Nat) (dg : Bool) (upper : Bool) {m n : Nat} (hm : m < 2 ^ 24)
    (hn : n < 2 ^ 24) :
    lin nan place dg (if upper then 0x3F800000#32 else 0x00000000#32) 0x00000000#32 0x3F800000#32 (f32OfNat m)
      (f32OfNat n) = f32OfNat (if upper then n else m) := by
  obtain ⟨hfm, hsm, hum⟩ := wholeNumbersConvertExactly m hm
  obtain ⟨hfn, hsn, hun⟩ := wholeNumbersConvertExactly n hn
  obtain ⟨d, hd, hdUnits⟩ := exists_unitsInt_eq (j := n - m) (by rw [abs_lt]; omega) (k := 149) (by omega)
  replace hdUnits : unitsInt d = unitsInt (f32OfNat n) - unitsInt (f32OfNat m) := by
    rw [hdUnits, hum, hun]
    ring
  rw [lin_unit_bounds nan place dg _ _ (by cases upper <;> simp)]
  cases upper <;> simp only [Bool.false_eq_true, if_false, if_true]
  · obtain ⟨hsub, -⟩ := (fSub_rounds nan (place + 3) hfn hfm).exact one_pos hd (by rw [hdUnits]; simp)
    obtain ⟨hfin, hunits⟩ := unit_product_zero nan (place + 4) hsub
    exact fAdd_eq_of_exact nan (place + 5) hfm hfin hfm hsm hsm (by rw [hunits, add_zero])
  · obtain ⟨hfin, hunits⟩ := unit_product_one nan place hfm hfn hd hdUnits
    exact fAdd_eq_of_exact nan (place + 5) hfm hfin hfn hsm hsn (by rw [hunits, add_sub_cancel])

theorem ite_lt_of_lt {m n l : Nat} (t : Bool) (hm : m < l) (hn : n < l) : (if t then n else m) < l := by
  cases t <;> assumption

/-- At a corner of the unit square, `bilin` is the corner there. -/
theorem bilin_unit_corner (nan : NaNSource) (place : Nat) (dg tx ty : Bool) {m0 m1 m2 m3 : Nat} (h0 : m0 < 2 ^ 24)
    (h1 : m1 < 2 ^ 24) (h2 : m2 < 2 ^ 24) (h3 : m3 < 2 ^ 24) :
    bilin nan place dg (if tx then 0x3F800000#32 else 0x00000000#32) (if ty then 0x3F800000#32 else 0x00000000#32)
      0x00000000#32 0x3F800000#32 0x00000000#32 0x3F800000#32 (f32OfNat m0) (f32OfNat m1) (f32OfNat m2)
      (f32OfNat m3) = f32OfNat (if ty then (if tx then m3 else m2) else if tx then m1 else m0) := by
  rw [bilin, lin_unit_end _ _ _ _ h0 h1, lin_unit_end _ _ _ _ h2 h3,
    lin_unit_end _ _ _ _ (ite_lt_of_lt tx h0 h1) (ite_lt_of_lt tx h2 h3)]

/-- Settles O20: the two faces and the line between them each pick the corner at their end. -/
theorem trilinUnitCubeCorners : Obligations.TrilinUnitCubeCorners := by
  intro nan place dg b c
  have hbyte : ∀ k, (b k).toNat < 2 ^ 24 := fun k => lt_trans (b k).isLt (by decide)
  have hface : ∀ i j k l (tx ty : Bool), (if ty then (if tx then (b l).toNat else (b k).toNat) else
      if tx then (b j).toNat else (b i).toNat) < 2 ^ 24 := fun i j k l tx ty =>
    ite_lt_of_lt ty (ite_lt_of_lt tx (hbyte i) (hbyte j)) (ite_lt_of_lt tx (hbyte k) (hbyte l))
  dsimp only
  simp only [trilin, Vector.getElem_mk, List.getElem_toArray, List.getElem_cons_zero, List.getElem_cons_succ]
  rw [bilin_unit_corner _ _ _ _ _ (hbyte 0) (hbyte 1) (hbyte 2) (hbyte 3),
    bilin_unit_corner _ _ _ _ _ (hbyte 4) (hbyte 5) (hbyte 6) (hbyte 7),
    lin_unit_end _ _ _ _ (hface 0 1 2 3 _ _) (hface 4 5 6 7 _ _)]
  fin_cases c <;> rfl

/-- A value of `j` eighths. -/
def Eighths (r : Word) (j : Int) : Prop := isFinite r = true ∧ unitsInt r = j * 2 ^ 146

section
variable (nan : NaNSource) (place : Nat) (dg : Bool)

/-- At the middle of the unit interval, with differences and halves that are exact, the mean. -/
theorem lin_unit_half {f0 f1 : Word} {i j : Int} (hi : Eighths f0 (2 * i)) (hj : Eighths f1 (2 * j))
    (hi' : 0 ≤ i ∧ i < 2 ^ 20) (hj' : 0 ≤ j ∧ j < 2 ^ 20) :
    Eighths (lin nan place dg 0x3F000000#32 0x00000000#32 0x3F800000#32 f0 f1) (i + j) := by
  obtain ⟨h0, h0Units⟩ := hi
  obtain ⟨h1, h1Units⟩ := hj
  rw [lin_unit_bounds nan place dg f0 f1 (.inr (.inl rfl))]
  have hhalf : unitsInt 0x3F000000#32 = 2 ^ 148 := by decide
  obtain ⟨hsub, hsubUnits⟩ := (fSub_rounds nan (place + 3) h1 h0).exact_of_scaled one_pos (j := 2 * (j - i))
    (k := 146) (by rw [abs_lt]; omega) (by omega) (by rw [h0Units, h1Units]; push_cast; ring)
  obtain ⟨hmul, hmulUnits⟩ := (fMul_rounds nan (place + 4) (a := 0x3F000000#32) rfl hsub).exact_of_scaled
    (by positivity) (j := j - i) (k := 146) (by rw [abs_lt]; omega) (by omega)
    (by rw [hhalf, hsubUnits]; push_cast; ring)
  exact (fAdd_rounds nan (place + 5) h0 hmul).exact_of_scaled one_pos (by rw [abs_lt]; omega) (by omega)
    (by rw [h0Units, hmulUnits]; push_cast; ring)

theorem bilin_unit_centre {f0 f1 f2 f3 : Word} {i0 i1 i2 i3 : Int} (h0 : Eighths f0 (4 * i0))
    (h1 : Eighths f1 (4 * i1)) (h2 : Eighths f2 (4 * i2)) (h3 : Eighths f3 (4 * i3)) (h0' : 0 ≤ i0 ∧ i0 < 2 ^ 16)
    (h1' : 0 ≤ i1 ∧ i1 < 2 ^ 16) (h2' : 0 ≤ i2 ∧ i2 < 2 ^ 16) (h3' : 0 ≤ i3 ∧ i3 < 2 ^ 16) :
    Eighths (bilin nan place dg 0x3F000000#32 0x3F000000#32 0x00000000#32 0x3F800000#32 0x00000000#32 0x3F800000#32
      f0 f1 f2 f3) (i0 + i1 + i2 + i3) := by
  have hdouble : ∀ i : Int, 4 * i = 2 * (2 * i) := fun i => by ring
  rw [hdouble] at h0 h1 h2 h3
  have hlow := lin_unit_half nan place dg h0 h1 (by omega) (by omega)
  have hhigh := lin_unit_half nan (place + 6) dg h2 h3 (by omega) (by omega)
  rw [← mul_add] at hlow hhigh
  have hmean := lin_unit_half nan (place + 12) dg hlow hhigh (by omega) (by omega)
  rwa [← add_assoc] at hmean

end

/-- Settles O21: the mean of the means of the two faces, every step exact. -/
theorem trilinUnitCubeCentre : Obligations.TrilinUnitCubeCentre := by
  intro nan place dg b
  have hbyte : ∀ k, Eighths (f32OfNat (b k).toNat) (4 * (2 * (b k).toNat)) := fun k => by
    obtain ⟨hfin, -, hunits⟩ := wholeNumbersConvertExactly (b k).toNat (lt_trans (b k).isLt (by decide))
    exact ⟨hfin, by rw [hunits]; ring⟩
  have hbound : ∀ k, (0 : Int) ≤ 2 * (b k).toNat ∧ 2 * ((b k).toNat : Int) < 2 ^ 16 := fun k => by
    have := (b k).isLt
    omega
  have hface := fun (q : Nat) (i j k l : Fin 8) => bilin_unit_centre nan q dg (hbyte i) (hbyte j) (hbyte k) (hbyte l)
    (hbound i) (hbound j) (hbound k) (hbound l)
  have hlow := hface place 0 1 2 3
  have hhigh := hface (place + 18) 4 5 6 7
  simp only [← mul_add] at hlow hhigh
  have h0 := hbound 0; have h1 := hbound 1; have h2 := hbound 2; have h3 := hbound 3
  have h4 := hbound 4; have h5 := hbound 5; have h6 := hbound 6; have h7 := hbound 7
  obtain ⟨hfin, hunits⟩ := lin_unit_half nan (place + 36) dg hlow hhigh (by omega) (by omega)
  refine ⟨hfin, ?_⟩
  dsimp only
  simp only [trilin, Vector.getElem_mk, List.getElem_toArray, List.getElem_cons_zero, List.getElem_cons_succ]
  rw [hunits]
  ring

end Sys2Proof.Machine

/-! The interpolation and sampling commands: what they write and leave (40_interpolate.md R128 to R130, 42_sample.md R160 to
R169), when a `SAMPLE` completes, and its results on a degenerate cell. -/

namespace Sys2Proof.Machine

/-! ### LIN, BILIN, TRILIN -/

theorem scalarResult_frame (s : State) (v : Word) : s.InterpFrame (s.scalarResult v) [17] where
  regs i hi := by rw [scalarResult_readX, if_neg (by simpa using hi)]
  ctrl := ⟨rfl, rfl, rfl⟩
  error := ⟨rfl, rfl⟩
  finished := ⟨rfl, rfl⟩
  latches := ⟨rfl, rfl⟩
  walk := ⟨rfl, rfl, rfl, rfl⟩
  bufA _ := rfl
  bufB _ := rfl
  fbuf _ := rfl
  environment := ⟨rfl, rfl, rfl⟩

theorem scalarResult_readX_dest (s : State) (v : Word) : (s.scalarResult v).readX 17 = v := by
  rw [scalarResult_readX, if_pos rfl]

/-- Settles O22. -/
theorem linCompletes : Obligations.LinCompletes :=
  fun s => ⟨_, rfl, scalarResult_readX_dest s _, scalarResult_frame s _⟩

/-- Settles O23. -/
theorem bilinCompletes : Obligations.BilinCompletes :=
  fun s => ⟨_, rfl, fun _ hnan => hnan ▸ scalarResult_readX_dest s _, scalarResult_frame s _⟩

/-- Settles O24. -/
theorem trilinCompletes : Obligations.TrilinCompletes :=
  fun s => ⟨_, rfl, fun _ hnan => hnan ▸ scalarResult_readX_dest s _, scalarResult_frame s _⟩

/-! ### When a `SAMPLE` completes (42_sample.md R165, R166) -/

/-- The four lanes of given corner values. -/
def lanesOf (nan : NaNSource) (dg : Bool) (g : GridCell) (v : Fin 4 → Vector Word 8) : Vector Word 4 :=
  #v[laneResult nan dg g 0 (v 0), laneResult nan dg g 1 (v 1), laneResult nan dg g 2 (v 2), laneResult nan dg g 3 (v 3)]

theorem lanesOf_getElem (nan : NaNSource) (dg : Bool) (g : GridCell) (v : Fin 4 → Vector Word 8) (ch : Fin 4) :
    (lanesOf nan dg g v)[ch] = laneResult nan dg g ch.val (v ch) := by
  fin_cases ch <;> rfl

/-- The lanes have values exactly where the 32 elements do. -/
theorem sampleLanes_eq_some_iff {nan : NaNSource} {dg : Bool} {g : GridCell} {rd : Nat → Option Word}
    {r : Vector Word 4} :
    sampleLanes nan dg g rd = some r ↔
      ∃ v : Fin 4 → Vector Word 8, (∀ (ch : Fin 4) (c : Fin 8), rd (cornerElement g c ch.val) = some (v ch)[c]) ∧
        r = lanesOf nan dg g v := by
  rw [sampleLanes_some]
  constructor
  · rintro ⟨v0, v1, v2, v3, h0, h1, h2, h3, rfl⟩
    refine ⟨![v0, v1, v2, v3], fun ch => ?_, rfl⟩
    apply cornerValues_some.1
    fin_cases ch <;> assumption
  · rintro ⟨v, hv, rfl⟩
    exact ⟨v 0, v 1, v 2, v 3, cornerValues_some.2 (hv 0), cornerValues_some.2 (hv 1), cornerValues_some.2 (hv 2),
      cornerValues_some.2 (hv 3), rfl⟩

/-- The four lanes of a state with given corner values. -/
def State.lanes (s : State) (v : Fin 4 → Vector Word 8) : Vector Word 4 := lanesOf s.nanSource s.degenL s.gridCell v

theorem sampleStore_next_iff {conv : Byte → Word} {st : StoreName} {s t : State} :
    sampleStore conv st s = .next t ↔
      ∃ v : Fin 4 → Vector Word 8,
        (∀ (ch : Fin 4) (c : Fin 8), s.element conv st (cornerElement s.gridCell c ch.val) = some (v ch)[c]) ∧
        t = s.sampleResult (s.lanes v) := by
  rw [sampleStore_next]
  constructor
  · rintro ⟨r, hr, rfl⟩
    obtain ⟨v, hv, rfl⟩ := sampleLanes_eq_some_iff.1 hr
    exact ⟨v, hv, rfl⟩
  · rintro ⟨v, hv, rfl⟩
    exact ⟨_, sampleLanes_eq_some_iff.2 ⟨v, hv, rfl⟩, rfl⟩

theorem sampleStore_of_element_none {conv : Byte → Word} {st : StoreName} {s : State} {c : Fin 8} {ch : Fin 4}
    (h : s.element conv st (cornerElement s.gridCell c ch.val) = none) :
    sampleStore conv st s = .refused (.unwritten st) := by
  refine sampleStore_refused.2 ⟨?_, rfl⟩
  rw [Option.eq_none_iff_forall_ne_some]
  intro r hr
  obtain ⟨v, hv, -⟩ := sampleLanes_eq_some_iff.1 hr
  cases h.symm.trans (hv ch c)

/-- Lane `ch` goes to `R<ch>`. -/
theorem sampleResult_readX_lane (s : State) (v : Fin 4 → Vector Word 8) (ch : Fin 4) :
    (s.sampleResult (s.lanes v)).readX ⟨17 + ch.val, by omega⟩ =
      laneResult s.nanSource s.degenL s.gridCell ch.val (v ch) := by
  rw [sampleResult_readX, ← lanesOf_getElem]
  fin_cases ch <;> rfl

/-- The same, register by register. -/
theorem sampleResult_readX_lanes (s : State) (v : Fin 4 → Vector Word 8) :
    (s.sampleResult (s.lanes v)).readX 17 = laneResult s.nanSource s.degenL s.gridCell 0 (v 0) ∧
      (s.sampleResult (s.lanes v)).readX 18 = laneResult s.nanSource s.degenL s.gridCell 1 (v 1) ∧
      (s.sampleResult (s.lanes v)).readX 19 = laneResult s.nanSource s.degenL s.gridCell 2 (v 2) ∧
      (s.sampleResult (s.lanes v)).readX 20 = laneResult s.nanSource s.degenL s.gridCell 3 (v 3) :=
  ⟨sampleResult_readX_lane s v 0, sampleResult_readX_lane s v 1, sampleResult_readX_lane s v 2,
    sampleResult_readX_lane s v 3⟩

theorem sampleResult_frame (s : State) (r : Vector Word 4) : s.InterpFrame (s.sampleResult r) [17, 18, 19, 20] where
  regs i hi := by
    simp only [List.mem_cons, List.not_mem_nil, or_false, not_or] at hi
    obtain ⟨h17, h18, h19, h20⟩ := hi
    rw [sampleResult_readX, if_neg h20, if_neg h19, if_neg h18, if_neg h17]
  ctrl := ⟨rfl, rfl, rfl⟩
  error := ⟨rfl, rfl⟩
  finished := ⟨rfl, rfl⟩
  latches := ⟨rfl, rfl⟩
  walk := ⟨rfl, rfl, rfl, rfl⟩
  bufA _ := rfl
  bufB _ := rfl
  fbuf _ := rfl
  environment := ⟨rfl, rfl, rfl⟩

/-- Each `SAMPLE` samples its own store with the default of `BYTE_CONV`. -/
theorem exec_sample {i : Instr} {st : StoreName}
    (h : (i = .sampleA ∧ st = .bufA) ∨ (i = .sampleB ∧ st = .bufB) ∨ (i = .sampleF ∧ st = .fbuf)) (s : State) :
    exec i s = sampleStore byteConv st s := by
  rcases h with ⟨rfl, rfl⟩ | ⟨rfl, rfl⟩ | ⟨rfl, rfl⟩ <;> rfl

/-- Settles O30. -/
theorem sampleOfUnwrittenIsRefused : Obligations.SampleOfUnwrittenIsRefused :=
  fun _ _ hi s _ _ hnone => (exec_sample hi s).trans (sampleStore_of_element_none hnone)

/-- Settles O26: the cell and its elements are as the model locates them, and each lane is read from its register. -/
theorem sampleCompletes : Obligations.SampleCompletes := by
  intro i st hi s
  refine ⟨rfl, fun c ch => cornerElement_eq s.gridCell c ch.val, fun e => ⟨rfl, rfl, rfl⟩, fun v hv => ?_⟩
  have hstep : exec i s = .next (s.sampleResult (s.lanes v)) := by
    rw [exec_sample hi]
    refine sampleStore_next_iff.2 ⟨v, fun ch c => ?_, rfl⟩
    rw [cornerElement_eq]
    exact hv ch c
  exact ⟨_, hstep, fun ch => sampleResult_readX_lane s v ch, sampleResult_frame s _⟩

/-- Settles O29: the same elements give the same lanes. -/
theorem sampleDependsOnItsElementsOnly : Obligations.SampleDependsOnItsElementsOnly := by
  intro conv st s u t hx hy hz hmode hseed helem ht
  obtain ⟨v, hv, rfl⟩ := sampleStore_next_iff.1 ht
  have hcell : u.gridCell = s.gridCell := by
    rw [State.gridCell_eq, State.gridCell_eq, hx, hy, hz, hseed]
  have hnan : u.nanSource = s.nanSource := by rw [State.nanSource, State.nanSource, hseed]
  refine ⟨_, sampleStore_next_iff.2 ⟨v, fun ch c => ?_, rfl⟩, ?_⟩
  · rw [hcell, helem]
    exact hv ch c
  · simp only [sampleResult_readX_lanes, hcell, hnan, hmode, and_self]

/-! ### At a node with the bypass (42_sample.md R167) -/

theorem trilin_of_bypass (nan : NaNSource) (place : Nat) (x y z : Word) {x0 x1 y0 y1 z0 z1 : Word}
    (f : Vector Word 8) (hx : fEq x0 x1 = true) (hy : fEq y0 y1 = true) (hz : fEq z0 z1 = true) :
    trilin nan place true x y z x0 x1 y0 y1 z0 z1 f = f[0] := by
  simp only [trilin, bilin, lin_of_bypass _ _ _ _ _ _ _ hx, lin_of_bypass _ _ _ _ _ _ _ hy,
    lin_of_bypass _ _ _ _ _ _ _ hz]

/-- Settles O28: all corners are the element of the node, and the bypass answers the first. -/
theorem sampleNodeBypassIsStoredSample : Obligations.SampleNodeBypassIsStoredSample := by
  intro conv st s v hmode hx hy hz hv
  have hcomplete : sampleStore conv st s = .next (s.sampleResult (s.lanes fun ch => Vector.replicate 8 (v ch))) := by
    refine sampleStore_next_iff.2 ⟨_, fun ch c => ?_, rfl⟩
    rw [cornerElement_eq, ← hx, ← hy, ← hz]
    simpa using hv ch
  have hlane : ∀ ch : Fin 4,
      laneResult s.nanSource s.degenL s.gridCell ch.val (Vector.replicate 8 (v ch)) = v ch := fun ch => by
    rw [laneResult, hmode, ← hx, ← hy, ← hz, trilin_of_bypass _ _ _ _ _ _ (fEq_f32OfNat_self _)
      (fEq_f32OfNat_self _) (fEq_f32OfNat_self _)]
    simp
  obtain ⟨h17, h18, h19, h20⟩ := sampleResult_readX_lanes s fun ch => Vector.replicate 8 (v ch)
  exact ⟨_, hcomplete, h17.trans (hlane 0), h18.trans (hlane 1), h19.trans (hlane 2), h20.trans (hlane 3)⟩

/-! ### On a degenerate cell without the bypass (42_sample.md R167, R168) -/

/-- Two results that differ at most in the bits of a NaN: what is computed twice from the same operands, at two places. -/
def SameButNaN (a b : Word) : Prop := a = b ∨ (isNaN a = true ∧ isNaN b = true)

section
variable (nan : NaNSource) (p q : Nat)

theorem deliver_sameButNaN {f : Word → Word → Option Word} (hf : ∀ {a b}, isNaN a = true ∨ isNaN b = true → f a b = none)
    {a a' b b' : Word} (ha : SameButNaN a a') (hb : SameButNaN b b') :
    SameButNaN (deliver nan p a b (f a b)) (deliver nan q a' b' (f a' b')) := by
  have hvalue : f a b = f a' b' := by
    rcases ha with rfl | ⟨ha, ha'⟩
    · rcases hb with rfl | ⟨hb, hb'⟩
      · rfl
      · rw [hf (.inr hb), hf (.inr hb')]
    · rw [hf (.inl ha), hf (.inl ha')]
  rw [hvalue]
  cases f a' b' with
  | some v => exact .inl rfl
  | none =>
    exact .inr ⟨isNaN_of_quiet (isQuietNaN_deliver_none _ _ _ _), isNaN_of_quiet (isQuietNaN_deliver_none _ _ _ _)⟩

theorem lin_sameButNaN (dg : Bool) (x x0 x1 : Word) {f0 f0' f1 f1' : Word} (h0 : SameButNaN f0 f0')
    (h1 : SameButNaN f1 f1') : SameButNaN (lin nan p dg x x0 x1 f0 f1) (lin nan q dg x x0 x1 f0' f1') := by
  have hrefl : ∀ a, SameButNaN a a := fun a => .inl rfl
  cases hbypass : dg && fEq x0 x1 with
  | true => simpa [lin, hbypass] using h0
  | false =>
    rw [lin_of_no_bypass _ _ _ _ _ _ _ _ hbypass, lin_of_no_bypass _ _ _ _ _ _ _ _ hbypass]
    have hto := deliver_sameButNaN nan p q subValue_of_nan (hrefl x) (hrefl x0)
    have hlength := deliver_sameButNaN nan (p + 1) (q + 1) subValue_of_nan (hrefl x1) (hrefl x0)
    have hparameter := deliver_sameButNaN nan (p + 2) (q + 2) divValue_of_nan hto hlength
    have hrise := deliver_sameButNaN nan (p + 3) (q + 3) subValue_of_nan h1 h0
    have hproduct := deliver_sameButNaN nan (p + 4) (q + 4) mulValue_of_nan hparameter hrise
    exact deliver_sameButNaN nan (p + 5) (q + 5) addValue_of_nan h0 hproduct

theorem bilin_sameButNaN (dg : Bool) (x y x0 x1 y0 y1 f0 f1 f2 f3 : Word) :
    SameButNaN (bilin nan p dg x y x0 x1 y0 y1 f0 f1 f2 f3) (bilin nan q dg x y x0 x1 y0 y1 f0 f1 f2 f3) :=
  lin_sameButNaN nan _ _ dg y y0 y1 (lin_sameButNaN nan _ _ dg x x0 x1 (.inl rfl) (.inl rfl))
    (lin_sameButNaN nan _ _ dg x x0 x1 (.inl rfl) (.inl rfl))

/-- A difference of a value with itself is zero, of an infinity or a NaN a NaN. -/
theorem isNaN_or_isZero_fSub {a b : Word} (h : SameButNaN a b) :
    isNaN (fSub nan p a b) = true ∨ isZero (fSub nan p a b) = true := by
  rcases h with rfl | ⟨ha, -⟩
  · rcases isNaN_or_isInf_or_isFinite a with h | h | h
    · exact .inl (isNaN_fSub_of_nan _ _ (.inl h))
    · exact .inl ((isNaN_fSub_of_inf_inf nan p a a h h).2 rfl)
    · exact .inr (fSub_self nan p h ▸ isZero_zeroOf false)
  · exact .inl (isNaN_fSub_of_nan _ _ (.inl ha))

/-- Between equal bounds and equal corners: `∞ ⊗ 0`, if not a NaN before. -/
theorem isNaN_lin_of_degenerate (x b : Word) {f0 f1 : Word} (h : SameButNaN f1 f0) :
    isNaN (lin nan p false x b b f0 f1) = true := by
  rw [lin_of_no_bypass nan p false x b b f0 f1 rfl]
  refine isNaN_fAdd_of_nan _ _ (.inr ?_)
  rcases isNaN_or_isZero_fSub nan (p + 1) (.inl rfl : SameButNaN b b) with hlength | hlength
  · exact isNaN_fMul_of_nan _ _ (.inl (isNaN_fDiv_of_nan _ _ (.inr hlength)))
  · rcases isNaN_or_isInf_fDiv_of_zero nan (p + 2) (fSub nan p x b) hlength with hn | hinf
    · exact isNaN_fMul_of_nan _ _ (.inl hn)
    · rcases isNaN_or_isZero_fSub nan (p + 3) h with hrise | hrise
      · exact isNaN_fMul_of_nan _ _ (.inr hrise)
      · exact isNaN_fMul_of_inf_zero _ _ hinf hrise

/-- The lower corner's NaN is the result's. -/
theorem isNaN_lin_of_lower (x x0 x1 f1 : Word) {f0 : Word} (h : isNaN f0 = true) :
    isNaN (lin nan p false x x0 x1 f0 f1) = true :=
  isNaN_of_quiet (isQuietNaN_lin_of_nan nan p rfl (.inr (.inr (.inr (.inl h)))))

/-- Whichever axis is degenerate, the corners at its two bounds being the same, the result is a NaN. -/
theorem isQuietNaN_trilin_of_degenerate (x y z x0 x1 y0 y1 z0 z1 : Word) (f : Vector Word 8)
    (h : (x0 = x1 ∧ f[0] = f[1]) ∨ (y0 = y1 ∧ f[0] = f[2] ∧ f[1] = f[3]) ∨
      (z0 = z1 ∧ f[0] = f[4] ∧ f[1] = f[5] ∧ f[2] = f[6] ∧ f[3] = f[7])) :
    isQuietNaN (trilin nan p false x y z x0 x1 y0 y1 z0 z1 f) = true := by
  apply isQuietNaN_lin_of_isNaN nan (p + 36) rfl
  rcases h with ⟨rfl, h01⟩ | ⟨rfl, h02, h13⟩ | ⟨rfl, h04, h15, h26, h37⟩
  · exact isNaN_lin_of_lower _ _ _ _ _ _ (isNaN_lin_of_lower _ _ _ _ _ _
      (isNaN_lin_of_degenerate nan p x x0 (.inl h01.symm)))
  · rw [← h02, ← h13]
    exact isNaN_lin_of_lower _ _ _ _ _ _ (isNaN_lin_of_degenerate nan (p + 12) y y0
      (lin_sameButNaN nan _ _ false x x0 x1 (.inl rfl) (.inl rfl)))
  · rw [← h04, ← h15, ← h26, ← h37]
    exact isNaN_lin_of_degenerate nan (p + 36) z z0 (bilin_sameButNaN nan _ _ false x y x0 x1 y0 y1 _ _ _ _)

end

/-- Corners of the same element have the same value. -/
theorem corner_eq_of_element_eq {rd : Nat → Option Word} {g : GridCell} {ch : Nat} {v : Vector Word 8}
    (hv : ∀ c : Fin 8, rd (cornerElement g c ch) = some v[c]) {c c' : Fin 8}
    (h : cornerElement g c ch = cornerElement g c' ch) : v[c] = v[c'] := by
  have hc := hv c
  rw [h, hv c'] at hc
  exact (Option.some.inj hc).symm

/-- Settles O27: where the indices of an axis coincide, so do its bounds and the elements of the corners at them. -/
theorem sampleDegenerateAllNaN : Obligations.SampleDegenerateAllNaN := by
  intro conv st s t hmode haxis ht
  obtain ⟨v, hv, rfl⟩ := sampleStore_next_iff.1 ht
  have hlane : ∀ ch : Fin 4, isQuietNaN (laneResult s.nanSource s.degenL s.gridCell ch.val (v ch)) = true := by
    intro ch
    have hsame := fun {c c' : Fin 8} => corner_eq_of_element_eq (c := c) (c' := c') (hv ch)
    rw [hmode]
    refine isQuietNaN_trilin_of_degenerate _ _ _ _ _ _ _ _ _ _ _ _ ?_
    rcases haxis with hx | hy | hz
    · exact .inl ⟨congrArg f32OfNat hx, hsame (c := 0) (c' := 1) (by simp [cornerElement, hx])⟩
    · exact .inr (.inl ⟨congrArg f32OfNat hy, hsame (c := 0) (c' := 2) (by simp [cornerElement, hy]),
        hsame (c := 1) (c' := 3) (by simp [cornerElement, hy])⟩)
    · exact .inr (.inr ⟨congrArg f32OfNat hz, hsame (c := 0) (c' := 4) (by simp [cornerElement, hz]),
        hsame (c := 1) (c' := 5) (by simp [cornerElement, hz]), hsame (c := 2) (c' := 6) (by simp [cornerElement, hz]),
        hsame (c := 3) (c' := 7) (by simp [cornerElement, hz])⟩)
  obtain ⟨h17, h18, h19, h20⟩ := sampleResult_readX_lanes s v
  rw [h17, h18, h19, h20]
  exact ⟨hlane 0, hlane 1, hlane 2, hlane 3⟩

/-! ### Every command -/

/-- An outcome with an update made on its next state. -/
def onNext (f : State → State) : Host.Outcome State Fault Refusal → Host.Outcome State Fault Refusal
  | .next t => .next (f t)
  | .fault r => .fault r
  | .refused r => .refused r

theorem walkStep_writeCtrl (dir dz : Bool) (s : State) (v : Word) :
    walkStep dir dz (s.writeCtrl v) = (walkStep dir dz s).writeCtrl v := by
  have hlast : (s.writeCtrl v).walk.toNat = s.walk.toNat := rfl
  simp only [walkStep_eq, walk_last_iff, hlast]
  split_ifs <;> cases dir <;> rfl

theorem sampleStore_writeCtrl (conv : Byte → Word) (st : StoreName) (s : State) (v : Word) :
    sampleStore conv st (s.writeCtrl v) = onNext (State.writeCtrl · v) (sampleStore conv st s) := by
  have helem : (s.writeCtrl v).element conv st = s.element conv st := rfl
  have hlanes : sampleLanes (s.writeCtrl v).nanSource (s.writeCtrl v).degenL (s.writeCtrl v).gridCell
      (s.element conv st) = sampleLanes s.nanSource s.degenL s.gridCell (s.element conv st) := rfl
  simp only [sampleStore, helem, hlanes]
  cases sampleLanes s.nanSource s.degenL s.gridCell (s.element conv st) <;> rfl

/-- `CTRL` is not among what a command reads. -/
theorem exec_writeCtrl (i : Instr) (s : State) (v : Word) :
    exec i (s.writeCtrl v) = onNext (State.writeCtrl · v) (exec i s) := by
  cases i with
  | lin | bilin | trilin => rfl
  | sampleA => exact sampleStore_writeCtrl _ .bufA s v
  | sampleB => exact sampleStore_writeCtrl _ .bufB s v
  | sampleF => exact sampleStore_writeCtrl _ .fbuf s v
  | swzAB => exact congrArg _ (walkStep_writeCtrl false false s v)
  | swzBA => exact congrArg _ (walkStep_writeCtrl true false s v)
  | dswzAB => exact congrArg _ (walkStep_writeCtrl false true s v)
  | dswzBA => exact congrArg _ (walkStep_writeCtrl true true s v)

/-- Settles O39. -/
theorem ctrlWriteDoesNotReachTheCommand : Obligations.CtrlWriteDoesNotReachTheCommand := by
  refine fun i s v => ⟨fun t ht => ?_, fun r hr => ?_, exec_ne_fault i s⟩
  · rw [exec_writeCtrl, ht]
    rfl
  · rw [exec_writeCtrl, hr]
    rfl

/-- Settles O40, by what a step of a command can be. -/
theorem commandsKeepControlAndErrors : Obligations.CommandsKeepControlAndErrors := by
  intro i s t ht
  rcases exec_cases i s with ⟨v, heq, _⟩ | ⟨r, heq, _⟩ | ⟨st, heq, _⟩ | ⟨dir, dz, heq, _⟩ <;> cases heq.symm.trans ht
  · exact ⟨rfl, rfl, rfl, rfl, rfl, rfl, rfl, rfl, rfl⟩
  · exact ⟨rfl, rfl, rfl, rfl, rfl, rfl, rfl, rfl, rfl⟩
  · have hframe := walkStep_frame dir dz s
    obtain ⟨hdegen, hieDone, hieErr⟩ := hframe.ctrl
    obtain ⟨herr, hcode⟩ := hframe.error
    obtain ⟨hcur, hdegenL⟩ := hframe.latches
    obtain ⟨hevents, hresponse, -⟩ := hframe.environment
    exact ⟨hdegen, hieDone, hieErr, herr, hcode, hcur, hdegenL, hevents, hresponse⟩

/-- A command ends where it clears `BUSY`, and then sets `DONE`. -/
theorem exec_done_eq_not_busy {i : Instr} {s t : State} (hbusy : s.busy = true) (hdone : s.done = false)
    (ht : exec i s = .next t) : t.done = !t.busy := by
  rcases exec_cases i s with ⟨v, heq, _⟩ | ⟨r, heq, _⟩ | ⟨st, heq, _⟩ | ⟨dir, dz, heq, _⟩ <;> cases heq.symm.trans ht
  · rfl
  · rfl
  · rw [walkStep_done, walkStep_busy, hbusy, hdone]
    split_ifs <;> rfl

/-- Settles O41: the interrupt enables and `ERR` are not the command's. -/
theorem busyFallsAsDoneRises : Obligations.BusyFallsAsDoneRises := by
  intro i s t hbusy hdone ht
  obtain ⟨-, hieDone, hieErr, herr, -⟩ := commandsKeepControlAndErrors i s t ht
  have hdone' := exec_done_eq_not_busy hbusy hdone ht
  refine ⟨hdone', fun hidle => ?_⟩
  rw [State.irq, hdone', hidle, hieDone, hieErr, herr, Bool.not_false, Bool.and_true]

end Sys2Proof.Machine

/-! The host port of an idle or busy unit: reads and writes of the control registers, operand registers and stores, each
with its answer and its frame (10_state.md R31 to R35, 20_memory.md R62 to R71). -/

namespace Sys2Proof.Machine

/-! ### Aligned 4-byte transactions (20_memory.md R68) -/

theorem checkTxn_of_wide {t : HostTxn} {g : Target} {busy : Bool} (htarget : targetOf t.addr = some g)
    (hwide : t.isWide = true) (halign : t.addr.toNat % 4 = 0) (hdir : g.directionOk t.isWrite = true)
    (hfree : g.locked = false ∨ busy = false) : checkTxn t busy = .ok g := by
  have hwidth : g.widthOk true = true := by cases g <;> rfl
  have hfree' : ¬(g.locked = true ∧ busy = true) := by
    rcases hfree with h | h <;> simp [h]
  simp [checkTxn, htarget, hwide, hwidth, halign, hdir, hfree']

section
variable {s : State} {a : HostAddr} {g : Target} (htarget : targetOf a = some g) (halign : a.toNat % 4 = 0)
  (hfree : g.locked = false ∨ s.busy = false)
include htarget halign hfree

theorem hostStep_read4 (hdir : g.directionOk false = true) : hostStep (.read4 a) s = performRead4 g s := by
  rw [hostStep, checkTxn_of_wide (t := .read4 a) htarget rfl halign hdir hfree]
  rfl

theorem hostStep_write4 (hdir : g.directionOk true = true) (v : Word) :
    hostStep (.write4 a v) s = performWrite4 g v s := by
  rw [hostStep, checkTxn_of_wide (t := .write4 a v) htarget rfl halign hdir hfree]
  rfl

theorem step_read4 (hdir : g.directionOk false = true) {es : List Event} (he : s.events = .host (.read4 a) :: es) :
    step s = performRead4 g (s.withEvents es) :=
  (step_of_host_event he).trans (hostStep_read4 (s := s.withEvents es) htarget halign hfree hdir)

theorem step_write4 (hdir : g.directionOk true = true) {es : List Event} {v : Word}
    (he : s.events = .host (.write4 a v) :: es) : step s = performWrite4 g v (s.withEvents es) :=
  (step_of_host_event he).trans (hostStep_write4 (s := s.withEvents es) htarget halign hfree hdir v)

end

/-! ### The control registers (10_state.md R31 to R35) -/

section
variable (s : State)

theorem hostStep_read4_id : hostStep (.read4 0x20000#18) s = .next (s.respond (.okWord idWord)) :=
  hostStep_read4 (g := .id) (by decide) (by decide) (.inl rfl) rfl

theorem hostStep_read4_ctrl : hostStep (.read4 0x20004#18) s = .next (s.respond (.okWord s.ctrlWord)) :=
  hostStep_read4 (g := .ctrl) (by decide) (by decide) (.inl rfl) rfl

theorem hostStep_read4_status : hostStep (.read4 0x20008#18) s = .next (s.respond (.okWord s.statusWord)) :=
  hostStep_read4 (g := .status) (by decide) (by decide) (.inl rfl) rfl

theorem hostStep_write4_ctrl (v : Word) : hostStep (.write4 0x20004#18 v) s = .next ((s.writeCtrl v).respond .ok) :=
  hostStep_write4 (g := .ctrl) (by decide) (by decide) (.inl rfl) rfl v

theorem hostStep_write4_status (v : Word) :
    hostStep (.write4 0x20008#18 v) s = .next ((s.writeStatus v).respond .ok) :=
  hostStep_write4 (g := .status) (by decide) (by decide) (.inl rfl) rfl v

end

/-- Settles O46. -/
theorem controlReadsAnswer : Obligations.ControlReadsAnswer := by
  refine fun s es => ⟨fun he => ?_, fun he => ?_, fun he => ?_⟩
  · rw [step_of_host_event he, hostStep_read4_id]
    rfl
  · rw [step_of_host_event he, hostStep_read4_ctrl]
    rfl
  · rw [step_of_host_event he, hostStep_read4_status]
    rfl

theorem ctrlWord_getLsbD (s : State) (i : Nat) : s.ctrlWord.getLsbD i =
    (if i = 0 then s.degen else if i = 1 then s.ieDone else if i = 2 then s.ieErr else false) := by
  change BitVec.getLsbD (w := 29 + 1 + 1 + 1) (0#29 ++ _ ++ _ ++ _) i = _
  simp only [BitVec.getLsbD_append]
  rcases i with _ | _ | _ | i <;> simp

theorem statusWord_getLsbD (s : State) (i : Nat) : s.statusWord.getLsbD i =
    (if i = 0 then s.busy else if i = 1 then s.done else if i = 2 then s.err
      else if 4 ≤ i ∧ i ≤ 7 then s.errCode.getLsbD (i - 4) else false) := by
  change BitVec.getLsbD (w := 24 + 4 + 1 + 1 + 1 + 1) (0#24 ++ _ ++ _ ++ _ ++ _ ++ _) i = _
  simp only [BitVec.getLsbD_append]
  rcases i with _ | _ | _ | _ | i
  case succ.succ.succ.succ =>
    by_cases h : i < 4
    · simp [h]
      omega
    · simp [h]
      omega
  all_goals simp

/-- Settles O47. -/
theorem controlWordLayout : Obligations.ControlWordLayout :=
  fun s i => ⟨ctrlWord_getLsbD s i, statusWord_getLsbD s i⟩

/-- `CTRL` reads as the three bits last written (10_state.md R33). -/
theorem ctrlWord_writeCtrl (s : State) (v : Word) : (s.writeCtrl v).ctrlWord = v &&& 7#32 := by
  apply BitVec.eq_of_getLsbD_eq
  intro i hi
  rw [ctrlWord_getLsbD, BitVec.getLsbD_and]
  rcases i with _ | _ | _ | i
  case succ.succ.succ =>
    have hmask : (7#32).getLsbD (i + 3) = false :=
      Nat.testBit_lt_two_pow (lt_of_lt_of_le (by decide : 7 < 2 ^ 3) (Nat.pow_le_pow_right (by decide) (by omega)))
    simp only [hmask, Bool.and_false]
    simp
  all_goals simp

/-- Settles O48. -/
theorem ctrlWriteThenRead : Obligations.CtrlWriteThenRead := by
  intro s es v he
  have hread : ∀ t : State, t.events = .host (.read4 0x20004#18) :: es →
      step t = .next ((t.withEvents es).respond (.okWord t.ctrlWord)) := fun t ht =>
    (step_of_host_event ht).trans (hostStep_read4_ctrl (t.withEvents es))
  refine ⟨_, _, (step_of_host_event he).trans (hostStep_write4_ctrl _ v), hread _ rfl, rfl, rfl, rfl, ?_, rfl⟩
  exact congrArg (some ∘ Response.okWord) (ctrlWord_writeCtrl s v)

/-- Settles O49. -/
theorem statusWriteOneToClear : Obligations.StatusWriteOneToClear := by
  intro s es v he
  refine ⟨_, (step_of_host_event he).trans (hostStep_write4_status _ v), ?_, ?_, ?_, ?_⟩
  · simp only [State.respond_done, State.writeStatus_done, State.withEvents_done]
    cases v.getLsbD 1 <;> simp
  · simp only [State.respond_err, State.writeStatus_err, State.withEvents_err]
    cases v.getLsbD 2 <;> simp
  · simp only [State.respond_errCode, State.writeStatus_errCode, State.withEvents_errCode]
  · unfold State.writeStatus
    cases v.getLsbD 1 <;> cases v.getLsbD 2 <;> rfl

/-- Settles O51: the write of `CMD` submits the word, and a legal one is accepted. -/
theorem legalWordIsAccepted : Obligations.LegalWordIsAccepted := by
  intro s es w i he hidle hw
  rw [step_of_host_event he, hostStep_write4_cmd (s := s.withEvents es) hidle, State.submit_of_decode_ok _ hw]
  rfl

/-! ### Operand registers and `FBUF` (20_memory.md R62) -/

theorem targetOf_regAddr : ∀ i : Fin 21, targetOf (BitVec.ofNat 18 (0x20040 + 4 * i.val)) = some (.reg i) ∧
    (BitVec.ofNat 18 (0x20040 + 4 * i.val)).toNat % 4 = 0 := by decide

theorem fbufAddr_toNat {i : Nat} (hi : i < 16384) :
    (BitVec.ofNat 18 (0x10000 + 4 * i)).toNat = 0x10000 + 4 * i := by
  rw [BitVec.toNat_ofNat]
  omega

theorem targetOf_fbufAddr {i : Nat} (hi : i < 16384) :
    targetOf (BitVec.ofNat 18 (0x10000 + 4 * i)) = some (.fbuf i) := by
  unfold targetOf
  simp only [fbufAddr_toNat hi]
  rw [if_neg (by omega), if_neg (by omega), if_neg (by omega), if_pos (by omega)]
  congr 2
  omega

theorem fbufAddr_aligned {i : Nat} (hi : i < 16384) : (BitVec.ofNat 18 (0x10000 + 4 * i)).toNat % 4 = 0 := by
  rw [fbufAddr_toNat hi]
  omega

section
variable {s : State} {es : List Event} {v : Word} (hidle : s.busy = false)
include hidle

theorem step_write4_reg {i : Fin 21} (he : s.events = .host (.write4 (BitVec.ofNat 18 (0x20040 + 4 * i.val)) v) :: es) :
    step s = .next (((s.withEvents es).writeX i v).respond .ok) :=
  step_write4 (targetOf_regAddr i).1 (targetOf_regAddr i).2 (.inr hidle) rfl he

theorem step_read4_reg {i : Fin 21} (he : s.events = .host (.read4 (BitVec.ofNat 18 (0x20040 + 4 * i.val))) :: es) :
    step s = .next ((s.withEvents es).respond (.okWord (s.readX i))) :=
  step_read4 (targetOf_regAddr i).1 (targetOf_regAddr i).2 (.inr hidle) rfl he

variable {i : Nat} (hi : i < 16384)
include hi

theorem step_write4_fbuf (he : s.events = .host (.write4 (BitVec.ofNat 18 (0x10000 + 4 * i)) v) :: es) :
    step s = .next (((s.withEvents es).setFbuf (Memory.write s.fbuf i v)).respond .ok) :=
  step_write4 (targetOf_fbufAddr hi) (fbufAddr_aligned hi) (.inr hidle) rfl he

theorem step_read4_fbuf (he : s.events = .host (.read4 (BitVec.ofNat 18 (0x10000 + 4 * i))) :: es) :
    step s = answerWord .fbuf (s.withEvents es) (Memory.read s.fbuf i) :=
  step_read4 (targetOf_fbufAddr hi) (fbufAddr_aligned hi) (.inr hidle) rfl he

theorem step_read4_fbuf_of_some (he : s.events = .host (.read4 (BitVec.ofNat 18 (0x10000 + 4 * i))) :: es)
    (hv : Memory.read s.fbuf i = some v) : step s = .next ((s.withEvents es).respond (.okWord v)) := by
  rw [step_read4_fbuf hidle hi he, hv]
  rfl

end

/-- Settles O52. -/
theorem operandRegisterHoldsRawBits : Obligations.OperandRegisterHoldsRawBits := by
  intro s es i v hidle he
  have hwrite := step_write4_reg hidle he
  refine ⟨_, _, hwrite, step_read4_reg (es := es) (by simpa using hidle) rfl, ?_, fun j => ?_, rfl⟩
  · exact congrArg (some ∘ Response.okWord) (State.readX_writeX_same s i v)
  · exact State.readX_writeX s i j v

/-- A write of `FBUF` and an answer are three fields of the state. -/
theorem State.setFbuf_respond_eq (s : State) (es' es : List Event) (m : Memory 32) (r' r : Response) :
    ((((s.withEvents es').setFbuf m).respond r').withEvents es).respond r =
      { s with fbuf := m, events := es, response := some r } := by
  cases s
  rfl

/-- Settles O53. -/
theorem fbufElementHoldsItsWord : Obligations.FbufElementHoldsItsWord := by
  intro s es i v hi hidle he
  have hstored := fun j => Memory.read_write s.fbuf i j v
  have hwrite := step_write4_fbuf hidle hi he
  exact ⟨_, _, hwrite, step_read4_fbuf_of_some (es := es) (v := v) (by simpa using hidle) hi rfl (by simp [hstored]),
    rfl, hstored, State.setFbuf_respond_eq ..⟩

/-! ### The byte stores (20_memory.md R65, R66) -/

/-- The host has replaced a byte store, the transaction taken off the list. -/
def State.hostWrote (s : State) (b : Bool) (m : Memory 8) (es : List Event) : State :=
  ((s.withEvents es).setByteStore b m).respond .ok

/-- The host has been answered, the transaction taken off the list. -/
def State.hostGot (s : State) (r : Response) (es : List Event) : State := (s.withEvents es).respond r

section
variable (s : State) (b : Bool) (m : Memory 8) (r : Response) (es : List Event)

@[simp] theorem State.hostWrote_busy : (s.hostWrote b m es).busy = s.busy := by simp [State.hostWrote]
@[simp] theorem State.hostWrote_events : (s.hostWrote b m es).events = es := by simp [State.hostWrote]
@[simp] theorem State.hostWrote_byteStore : (s.hostWrote b m es).byteStore b = m := by simp [State.hostWrote]
@[simp] theorem State.hostGot_busy : (s.hostGot r es).busy = s.busy := rfl
@[simp] theorem State.hostGot_events : (s.hostGot r es).events = es := rfl
@[simp] theorem State.hostGot_byteStore (c : Bool) : (s.hostGot r es).byteStore c = s.byteStore c := rfl

end

/-- Nothing has changed but a byte store, the model's list and its response. -/
def OnlyByteStore (b : Bool) (s t : State) : Prop :=
  t = { s with bufA := t.bufA, bufB := t.bufB, events := t.events, response := t.response } ∧
    ∀ a, Memory.read (t.byteStore (!b)) a = Memory.read (s.byteStore (!b)) a

theorem OnlyByteStore.refl (b : Bool) (s : State) : OnlyByteStore b s s := ⟨rfl, fun _ => rfl⟩

section
variable {b : Bool} {s t : State} (h : OnlyByteStore b s t)
include h

theorem OnlyByteStore.hostWrote (m : Memory 8) (es : List Event) : OnlyByteStore b s (t.hostWrote b m es) := by
  obtain ⟨heq, hother⟩ := h
  generalize t.bufA = mA, t.bufB = mB, t.events = e, t.response = r at heq
  subst heq
  cases b <;> exact ⟨rfl, hother⟩

theorem OnlyByteStore.hostGot (r : Response) (es : List Event) : OnlyByteStore b s (t.hostGot r es) := by
  obtain ⟨heq, hother⟩ := h
  generalize t.bufA = mA, t.bufB = mB, t.events = e, t.response = r' at heq
  subst heq
  exact ⟨rfl, hother⟩

end

section
variable {s : State} {b : Bool} {off : Nat} {es : List Event} (hoff : off < 16384) (hidle : s.busy = false)
include hoff hidle

theorem step_write1_byteStore {v : Byte}
    (he : s.events = .host (.write1 (BitVec.ofNat 18 ((if b then 0x4000 else 0) + off)) v) :: es) :
    step s = .next (s.hostWrote b (Memory.write (s.byteStore b) off v) es) :=
  (step_of_host_event he).trans (hostStep_write1_byteStore (s.withEvents es) b v hoff hidle)

theorem run_write1_byteStore (n : Nat) {v : Byte}
    (he : s.events = .host (.write1 (BitVec.ofNat 18 ((if b then 0x4000 else 0) + off)) v) :: es) :
    Host.Core.run core (n + 1) s =
      Host.Core.run core n (s.hostWrote b (Memory.write (s.byteStore b) off v) es) :=
  run_succ_of_next n (step_write1_byteStore hoff hidle he)

theorem step_write4_byteStore {v : Word} (halign : off % 4 = 0)
    (he : s.events = .host (.write4 (BitVec.ofNat 18 ((if b then 0x4000 else 0) + off)) v) :: es) :
    step s = .next (s.hostWrote b (writeSampleWord (s.byteStore b) off v) es) :=
  (step_of_host_event he).trans (hostStep_write4_byteStore (s.withEvents es) b v hoff halign hidle)

theorem step_read1_byteStore {v : Byte}
    (he : s.events = .host (.read1 (BitVec.ofNat 18 ((if b then 0x4000 else 0) + off))) :: es)
    (hv : Memory.read (s.byteStore b) off = some v) : step s = .next (s.hostGot (.okByte v) es) := by
  rw [step_of_host_event he, hostStep_read1_byteStore (s.withEvents es) b hoff hidle, State.withEvents_byteStore, hv]
  rfl

theorem step_read4_byteStore {v : Word} (halign : off % 4 = 0)
    (he : s.events = .host (.read4 (BitVec.ofNat 18 ((if b then 0x4000 else 0) + off))) :: es)
    (hv : readSampleWord (s.byteStore b) off = some v) : step s = .next (s.hostGot (.okWord v) es) := by
  rw [step_of_host_event he, hostStep_read4_byteStore (s.withEvents es) b hoff halign hidle,
    State.withEvents_byteStore, hv]
  rfl

theorem step_read1_byteStore_unwritten
    (he : s.events = .host (.read1 (BitVec.ofNat 18 ((if b then 0x4000 else 0) + off))) :: es)
    (hv : Memory.read (s.byteStore b) off = none) : step s = .refused (.unwritten (byteStoreName b)) := by
  rw [step_of_host_event he, hostStep_read1_byteStore (s.withEvents es) b hoff hidle, State.withEvents_byteStore, hv]
  rfl

theorem step_read4_byteStore_unwritten (halign : off % 4 = 0)
    (he : s.events = .host (.read4 (BitVec.ofNat 18 ((if b then 0x4000 else 0) + off))) :: es)
    (hv : readSampleWord (s.byteStore b) off = none) : step s = .refused (.unwritten (byteStoreName b)) := by
  rw [step_of_host_event he, hostStep_read4_byteStore (s.withEvents es) b hoff halign hidle,
    State.withEvents_byteStore, hv]
  rfl

end

/-- Four bytes written one after the other. -/
def writeBytes (m : Memory 8) (off : Nat) (v0 v1 v2 v3 : Byte) : Memory 8 :=
  Memory.write (Memory.write (Memory.write (Memory.write m off v0) (off + 1) v1) (off + 2) v2) (off + 3) v3

theorem writeBytes_eq (m : Memory 8) (off : Nat) (v0 v1 v2 v3 : Byte) : writeBytes m off v0 v1 v2 v3 =
    Memory.write (Memory.write (Memory.write (Memory.write m off v0) (off + 1) v1) (off + 2) v2) (off + 3) v3 := rfl

theorem readSampleWord_writeBytes (m : Memory 8) (off : Nat) (v0 v1 v2 v3 : Byte) :
    readSampleWord (writeBytes m off v0 v1 v2 v3) off = some (v3 ++ v2 ++ v1 ++ v0) :=
  readSampleWord_some.2 ⟨v0, v1, v2, v3, by simp [writeBytes, Memory.read_write], by simp [writeBytes, Memory.read_write],
    by simp [writeBytes, Memory.read_write], by simp [writeBytes, Memory.read_write], rfl⟩

theorem read_writeBytes_of_outside (m : Memory 8) {off a : Nat} (v0 v1 v2 v3 : Byte) (h : a < off ∨ off + 4 ≤ a) :
    Memory.read (writeBytes m off v0 v1 v2 v3) a = Memory.read m a := by
  simp only [writeBytes, Memory.read_write]
  rw [if_neg (by omega), if_neg (by omega), if_neg (by omega), if_neg (by omega)]

/-- Settles O54, one history of transactions after the other. -/
theorem wordWriteIsLittleEndian : Obligations.WordWriteIsLittleEndian := by
  intro b s es hidle
  refine ⟨fun off k v halign hoff hk he => ?word, fun off v hoff he => ?byte, fun off v0 v1 v2 v3 halign hoff he => ?bytes⟩
  case word =>
    have hread := fun a => read_writeSampleWord (s.byteStore b) off a v
    have hbyte : ∀ j, j < 4 → Memory.read (writeSampleWord (s.byteStore b) off v) (off + j) =
        some (v.extractLsb' (8 * j) 8) := fun j hj => by
      rw [hread, if_pos (by omega), Nat.add_sub_cancel_left]
    refine ⟨_, _, _, step_write4_byteStore hoff hidle halign he,
      step_read1_byteStore (by omega) (by simpa using hidle) (State.hostWrote_events ..) (by simpa using hbyte k hk),
      step_read4_byteStore hoff (by simpa using hidle) halign (State.hostGot_events ..)
        (by simpa using readSampleWord_writeSampleWord _ _ _), rfl, rfl, rfl,
      (OnlyByteStore.refl b s).hostWrote _ _, (((OnlyByteStore.refl b s).hostWrote _ _).hostGot _ _).hostGot _ _, rfl,
      fun j hj => by simpa using hbyte j hj, fun a ha => ?_⟩
    simp only [State.hostGot_byteStore, State.hostWrote_byteStore]
    rw [hread, if_neg (by omega)]
  case byte =>
    have hread := fun a => Memory.read_write (s.byteStore b) off a v
    exact ⟨_, _, step_write1_byteStore hoff hidle he,
      step_read1_byteStore hoff (by simpa using hidle) (State.hostWrote_events ..) (by simp [hread]), rfl, rfl,
      (OnlyByteStore.refl b s).hostWrote _ _, ((OnlyByteStore.refl b s).hostWrote _ _).hostGot _ _, rfl,
      fun a => by simpa using hread a⟩
  case bytes =>
    dsimp only at he
    have hrun := (run_write1_byteStore hoff hidle 4 he).trans
      ((run_write1_byteStore (by omega) (by simpa using hidle) 3 (State.hostWrote_events ..)).trans
        ((run_write1_byteStore (by omega) (by simpa using hidle) 2 (State.hostWrote_events ..)).trans
          (run_write1_byteStore (by omega) (by simpa using hidle) 1 (State.hostWrote_events ..))))
    simp only [State.hostWrote_byteStore, ← writeBytes_eq] at hrun
    refine ⟨_, hrun.trans (run_succ_of_next 0 (step_read4_byteStore hoff (by simpa using hidle) halign
      (State.hostWrote_events ..) (by simpa using readSampleWord_writeBytes ..))), rfl,
      (((((OnlyByteStore.refl b s).hostWrote _ _).hostWrote _ _).hostWrote _ _).hostWrote _ _).hostGot _ _, rfl,
      fun a ha => ?_⟩
    simpa using read_writeBytes_of_outside (s.byteStore b) v0 v1 v2 v3 ha

/-! ### Cells that nothing has written (70_reset_and_hazards.md R214) -/

theorem readSampleWord_eq_none {m : Memory 8} {a k : Nat} (hk : k < 4) (h : Memory.read m (a + k) = none) :
    readSampleWord m a = none := by
  rw [Option.eq_none_iff_forall_ne_some]
  intro v hv
  obtain ⟨b0, b1, b2, b3, h0, h1, h2, h3, -⟩ := readSampleWord_some.1 hv
  obtain rfl | rfl | rfl | rfl : k = 0 ∨ k = 1 ∨ k = 2 ∨ k = 3 := by omega
  · cases h.symm.trans h0
  · cases h.symm.trans h1
  · cases h.symm.trans h2
  · cases h.symm.trans h3

/-- Settles O55. -/
theorem hostReadOfUnwrittenIsRefused : Obligations.HostReadOfUnwrittenIsRefused := by
  intro s es off hoff hidle
  refine ⟨fun he hv => ?_, fun he hv => ?_, fun he hv => ?_, fun k hk halign he hv => ?_, fun k hk halign he hv => ?_⟩
  · exact step_read1_byteStore_unwritten (b := false) (es := es) hoff hidle (by rw [he]; simp) hv
  · exact step_read1_byteStore_unwritten (b := true) hoff hidle he hv
  · rw [step_read4_fbuf hidle hoff he, hv]
    rfl
  · exact step_read4_byteStore_unwritten (b := false) (es := es) hoff hidle halign (by rw [he]; simp)
      (readSampleWord_eq_none hk hv)
  · exact step_read4_byteStore_unwritten (b := true) hoff hidle halign he (readSampleWord_eq_none hk hv)

end Sys2Proof.Machine
